-- ==== Sys2Proof/Word.lean ====
section
/-! DEFINITION. The word types of the ICMP echo unit (spec/00_scope.md R8, R11): a byte of a buffer, a 16-bit
field, a 32-bit register or host address. Everything else over them stands in Machine/Operands.lean. -/

namespace Sys2Proof

/-- A byte of `TX` or `RX` (R12). -/
abbrev Byte := BitVec 8

/-- A 16-bit field: identifier, sequence number, checksum, length (R8). -/
abbrev Half := BitVec 16

/-- A 32-bit register value, host address or command word (R8). -/
abbrev Word := BitVec 32

end Sys2Proof
end

