-- ==== Sys2Proof/Config.lean ====
section
/-! DEFINITION. The constants of spec/00_scope.md R8, the windows of spec/20_memory.md R51 to R53, and the bounds
and reference value of the one implementation parameter `RX_CAP` (R7). The parameter itself is a field of
State (`rxcap`), so that every statement about a state holds for every capacity. Nothing here is a free value. -/

namespace Sys2Proof.Config

/-- R7: the reference value of `RX_CAP`. -/
abbrev rxCapRef : Half := 65535#16

/-- R7: the least `RX_CAP`. -/
abbrev rxCapMin : Nat := 28

/-- R8 `FILLER_LEN`. -/
abbrev fillerLen : Nat := 48

/-- R8 `TX_LEN`: the length of the transmit buffer and of an echo request. -/
abbrev txLen : Nat := 64

/-- R8 `IP_HDR_LEN`: where the ICMP message starts in a reply, whatever the IPv4 header says (R140). -/
abbrev ipHdrLen : Nat := 20

/-- R8 `MIN_REPLY_LEN` (R141). -/
abbrev minReplyLen : Nat := 28

/-- R8 `USEC_PER_SEC`. -/
abbrev usecPerSec : Nat := 1000000

/-- R51: the last address of the register window. -/
abbrev regLast : Nat := 0x5B

/-- R52: the first address of the transmit window. -/
abbrev txBase : Nat := 0x1000

/-- R53: the first address of the receive window. -/
abbrev rxBase : Nat := 0x10000

end Sys2Proof.Config
end

