-- ==== Sys2Proof/Syntax.lean ====
section
/-! DEFINITION. The instructions: one constructor per row of spec/opcode_table.json. The seven commands are 32-bit
command words carried by a `WR32` to `CMD` (spec/30_encoding.md R70, R73), the six transactions are what the
host does on the bus (R74). -/

namespace Sys2Proof

/-- The seven commands and the six bus transactions. A write's data is held in 32 bits; that it fits the
access width is the check of WellFormed.lean (spec/44_host_bus.md R180). -/
inductive Instr where
  /-- `NOP` (R170). -/
  | nop
  /-- `SESSION id` (R171). -/
  | session (id : Half)
  /-- `BUILD seq` (R122). -/
  | build (seq : Half)
  /-- `PARSE len` (R149). -/
  | parse (len : Half)
  /-- `CKSUM len` (R105). -/
  | cksum (len : Half)
  /-- `CKTX` (R106). -/
  | cktx
  /-- `END` (R172). -/
  | endSession
  /-- `RD8 addr` (R181). -/
  | rd8 (addr : Word)
  /-- `RD16 addr` (R182). -/
  | rd16 (addr : Word)
  /-- `RD32 addr` (R183). -/
  | rd32 (addr : Word)
  /-- `WR8 addr, data` (R184). -/
  | wr8 (addr data : Word)
  /-- `WR16 addr, data` (R185). -/
  | wr16 (addr data : Word)
  /-- `WR32 addr, data` (R186). -/
  | wr32 (addr data : Word)
  deriving DecidableEq, Repr

end Sys2Proof
end

