-- ==== Sys2Proof/WellFormed.lean ====
section
/-! DEFINITION. Which instructions are well formed: spec/44_host_bus.md R180, "A write's `WDATA` has exactly `8n`
bits; a model refuses a transaction whose data does not fit." And which of the two encoded forms of R70 carries
an instruction. -/

namespace Sys2Proof

/-- R180: the data fits an access of `n` bytes. -/
def dataFits (n : Nat) (data : Word) : Bool := data.toNat < 2 ^ (8 * n)

/-- Every operand fits its field. The other fields are bounded by their types; an odd or unmapped address is
a legal transaction that ends in a bus error, not an ill-formed one. -/
def Instr.wellFormed : Instr → Bool
  | .nop => true
  | .session _ => true
  | .build _ => true
  | .parse _ => true
  | .cksum _ => true
  | .cktx => true
  | .endSession => true
  | .rd8 _ => true
  | .rd16 _ => true
  | .rd32 _ => true
  | .wr8 _ data => dataFits 1 data
  | .wr16 _ data => dataFits 2 data
  | .wr32 _ _ => true

/-- R70: the instructions that are carried in a command word, not presented on the bus. -/
def Instr.isCommand : Instr → Bool
  | .nop => true
  | .session _ => true
  | .build _ => true
  | .parse _ => true
  | .cksum _ => true
  | .cktx => true
  | .endSession => true
  | .rd8 _ => false
  | .rd16 _ => false
  | .rd32 _ => false
  | .wr8 _ _ => false
  | .wr16 _ _ => false
  | .wr32 _ _ => false

end Sys2Proof
end

