-- ==== Sys2Proof/Decode.lean ====
section
/-! DEFINITION. The two decoders of spec/30_encoding.md (R70: bus transactions and command words, "Nothing else is
decoded") and the encoder written from the same tables (R71 to R74). Both decoders are total and reject by
name. -/

namespace Sys2Proof

/-- R70 (a): a bus transaction `(TC, ADDR, WDATA)` as the host presents it. `wdata` is meaningful for writes
only and is ignored for reads. -/
structure BusRequest where
  tc : BitVec 4
  addr : Word
  wdata : Word
  deriving DecidableEq, Repr

/-- R70: the two encoded forms. -/
inductive Encoded where
  | request (r : BusRequest)
  | command (w : Word)
  deriving DecidableEq, Repr

/-- Why a bus transaction is no instruction. -/
inductive RequestReject where
  /-- R187: a reserved transaction code; the step answers `BusError(BADCODE)`. -/
  | badCode
  /-- R180: the data of a `WR8` or `WR16` does not fit; the model refuses the transaction. -/
  | dataTooWide
  deriving DecidableEq, Repr

/-- Why a command word is illegal (R75, R77); each ends in `EILLEGAL`. -/
inductive CommandReject where
  | reservedField
  | unknownOpcode
  | strayOperand
  deriving DecidableEq, Repr

/-- Why an encoded form is no instruction. -/
inductive Reject where
  | request (r : RequestReject)
  | command (r : CommandReject)
  deriving DecidableEq, Repr

/-- R71: `OP`, bits [31:24]. -/
def opField (w : Word) : BitVec 8 := w.extractLsb' 24 8

/-- R71: `RSV`, bits [23:16]. -/
def rsvField (w : Word) : BitVec 8 := w.extractLsb' 16 8

/-- R71: `IMM`, bits [15:0]. -/
def immField (w : Word) : Half := w.extractLsb' 0 16

/-- R73: an opcode that takes no operand wants `IMM = 0`. -/
def withoutOperand (imm : Half) (i : Instr) : Except CommandReject Instr :=
  if imm = 0 then .ok i else .error .strayOperand

/-- R73 and R75: the command a word encodes. The checks come in R75's order: `RSV`, `OP`, `IMM`. -/
def decodeCommand (w : Word) : Except CommandReject Instr :=
  if rsvField w ≠ 0 then .error .reservedField
  else
    match (opField w).toNat with
    | 0x00 => withoutOperand (immField w) .nop
    | 0x01 => .ok (.session (immField w))
    | 0x02 => .ok (.build (immField w))
    | 0x03 => .ok (.parse (immField w))
    | 0x04 => .ok (.cksum (immField w))
    | 0x05 => withoutOperand (immField w) .cktx
    | 0x06 => withoutOperand (immField w) .endSession
    | _ => .error .unknownOpcode

/-- R180: a write's data must fit its `n` bytes. -/
def withData (n : Nat) (data : Word) (i : Instr) : Except RequestReject Instr :=
  if dataFits n data then .ok i else .error .dataTooWide

/-- R74: the transaction a code stands for; every other code is reserved (R78, R187). -/
def decodeRequest (r : BusRequest) : Except RequestReject Instr :=
  match r.tc.toNat with
  | 0b0000 => .ok (.rd8 r.addr)
  | 0b0001 => .ok (.rd16 r.addr)
  | 0b0010 => .ok (.rd32 r.addr)
  | 0b1000 => withData 1 r.wdata (.wr8 r.addr r.wdata)
  | 0b1001 => withData 2 r.wdata (.wr16 r.addr r.wdata)
  | 0b1010 => .ok (.wr32 r.addr r.wdata)
  | _ => .error .badCode

/-- R70: the decoder over both encoded forms. -/
def decode : Encoded → Except Reject Instr
  | .request r => (decodeRequest r).mapError .request
  | .command w => (decodeCommand w).mapError .command

/-- R71, R73: the command word of opcode `op` with operand `imm` and `RSV = 0`. -/
def commandWord (op : BitVec 8) (imm : Half) : Word := op ++ 0#8 ++ imm

/-- R73, R74: the encoding of an instruction. A read carries no data. -/
def encode : Instr → Encoded
  | .nop => .command (commandWord 0x00 0)
  | .session id => .command (commandWord 0x01 id)
  | .build seq => .command (commandWord 0x02 seq)
  | .parse len => .command (commandWord 0x03 len)
  | .cksum len => .command (commandWord 0x04 len)
  | .cktx => .command (commandWord 0x05 0)
  | .endSession => .command (commandWord 0x06 0)
  | .rd8 addr => .request ⟨0b0000, addr, 0⟩
  | .rd16 addr => .request ⟨0b0001, addr, 0⟩
  | .rd32 addr => .request ⟨0b0010, addr, 0⟩
  | .wr8 addr data => .request ⟨0b1000, addr, data⟩
  | .wr16 addr data => .request ⟨0b1001, addr, data⟩
  | .wr32 addr data => .request ⟨0b1010, addr, data⟩

/-- The `WR32` to `CMD` (address 0) that carries a command word (R70 (b)). -/
def carry (w : Word) : BusRequest := ⟨0b1010, 0, w⟩

/-- The bus transaction that presents a row's bits to the block: for a transaction row (4 bits in the table, one
byte as the table is read) its code with `ADDR` and `WDATA` zero, for a command row its carrier. -/
def tableRequest (nbits w : Nat) : BusRequest :=
  if nbits ≤ 8 then ⟨BitVec.ofNat 4 w, 0, 0⟩ else carry (BitVec.ofNat 32 w)

/-- What the decoders read from a row's bits. A transaction code has 4 bits and a command word 32; a number
that needs more is neither. -/
def decodeTableWord (nbits w : Nat) : Option Instr :=
  if nbits ≤ 8 then
    if w < 2 ^ 4 then (decodeRequest (tableRequest nbits w)).toOption else none
  else
    if w < 2 ^ 32 then (decodeCommand (BitVec.ofNat 32 w)).toOption else none

end Sys2Proof
end

