-- ==== Sys2Proof/Machine/State.lean ====
section
/-! DEFINITION. The state of the ICMP echo unit (spec/10_state.md R20, R24): its 23 registers, the transmit and
receive buffers, and, as the model's own fields, what the host has asked for and what it has been answered.
Plain data throughout. -/

namespace Sys2Proof.Machine

/-- R26, R200: the values of `STATUS.LASTERR`. Codes 5 to 15 are never produced and have no constructor. -/
inductive ErrCode where
  | ok
  | eillegal
  | estate
  | ebadlen
  | ebadtime
  deriving DecidableEq, Repr

/-- R33: the values of `RES_KIND`. Value 3 is never produced and has no constructor. -/
inductive ResKind where
  | none
  | ok
  | short
  deriving DecidableEq, Repr

/-- R205: the causes of a bus error. -/
inductive BusCause where
  | badCode
  | misaligned
  | size
  | unmapped
  | readOnly
  deriving DecidableEq, Repr

/-- R180: what the host is answered. A read answers `Ok(data)` with data of the access width, a write answers
`Ok`, an errored transaction its cause. -/
inductive Response where
  | data8 (v : Byte)
  | data16 (v : Half)
  | data32 (v : Word)
  | done
  | busError (cause : BusCause)
  deriving DecidableEq, Repr

/-- R24: the 23 registers, by name. -/
inductive Reg where
  | cmd | status | timeSec | timeUsec | ident | seqLast | tsSecLast | tsUsecLast | ckSum | ckResult
  | resKind | resBytes | resSeq | resTtl | resRttLo | resRttHi | resRtype | resRcode | resRid | resRseq
  | resFlags | resIhl | rxcap
  deriving DecidableEq, Repr

/-- R37: the six bits of `RES_FLAGS`. -/
structure ResFlags where
  seqMismatch : Bool
  idMismatch : Bool
  ckBad : Bool
  ihlNot5 : Bool
  rttNeg : Bool
  typeNotReply : Bool
  deriving DecidableEq, Repr

/-- The twelve `RES_` registers (R24, R33 to R37), which R149's `SetResult` writes in one step. Each is held at
its used width; the bits above read 0 (R23). -/
structure ProbeResult where
  kind : ResKind
  bytes : Half
  seq : Half
  ttl : Byte
  rttLo : Word
  rttHi : Word
  rtype : Byte
  rcode : Byte
  rid : Half
  rseq : Half
  flags : ResFlags
  ihl : BitVec 4
  deriving DecidableEq, Repr

/-- What the host can do to the block: a bus transaction (R180), or reset (R230, "an optional host step"). -/
inductive HostEvent where
  | request (r : BusRequest)
  | reset
  deriving DecidableEq, Repr

/-- The buffers' bytes by host address (R52, R53): `TX[i]` at `0x1000 + i`, `RX[i]` at `0x1_0000 + i`. In canonical
form (`Memory.wf`): addresses strictly rising, no entry equal to what an unlisted address reads as. -/
abbrev Memory := List Host.Cell

/-- R20: the state of the block. `STATUS` (R26) is held as its five fields, `RES_` as one record, each register
at its used width. `RX_written[i]` (R20) is whether `mem` lists the address of `RX[i]`. -/
structure State where
  /-- `CMD` (R25). -/
  cmd : Word
  /-- `STATUS.LASTERR` (R26). -/
  lastErr : ErrCode
  /-- `STATUS.ERRSEEN` (R26). -/
  errSeen : Bool
  /-- `STATUS.BUSERRSEEN` (R26). -/
  busErrSeen : Bool
  /-- `STATUS.SACT` (R26). -/
  sact : Bool
  /-- `STATUS.TXVALID` (R26). -/
  txValid : Bool
  /-- `TIME_SEC` (R27). -/
  timeSec : Word
  /-- `TIME_USEC` (R27). -/
  timeUsec : Word
  /-- `IDENT` (R29). -/
  ident : Half
  /-- `SEQ_LAST` (R30). -/
  seqLast : Half
  /-- `TS_SEC_LAST` (R31). -/
  tsSecLast : Word
  /-- `TS_USEC_LAST` (R31). -/
  tsUsecLast : Word
  /-- `CK_SUM` (R32). -/
  ckSum : Half
  /-- `CK_RESULT` (R32). -/
  ckResult : Half
  /-- The twelve `RES_` registers (R33 to R37). -/
  res : ProbeResult
  /-- `RXCAP`, the parameter `RX_CAP` (R7, R38). -/
  rxcap : Half
  /-- `TX` and `RX` (R40, R41). -/
  mem : Memory
  /-- The model's own: what the host does next, first at the head (log entry 1). -/
  pending : List HostEvent
  /-- The model's own: the responses so far, oldest first (R10's observation, log entry 2). -/
  responses : List Response
  deriving DecidableEq, Repr

/-- Why a run ends in a fault (R10: the one fault of the model). -/
inductive Fault where
  /-- R207: a host read of `RX`, a `CKSUM` or a `PARSE` reads `RX[i]`, not written since reset. The spec's own model
  fault. Safe: the model stops where the hardware goes on with an unspecified value. -/
  | unwritten (i : Nat)
  deriving DecidableEq, Repr

/-- Why a step has no meaning. -/
inductive Refusal where
  /-- Raised by `exec`'s arm of an instruction that has no meaning yet; no arm is left that raises it. Safe. -/
  | notModelled (mnemonic : String)
  /-- R180: raised by a `WR8` or `WR16` whose data does not fit ("a model refuses a transaction whose data does not
  fit"). Safe: no such transaction exists on the bus. -/
  | dataTooWide
  deriving DecidableEq, Repr

/-- The outcome of running one instruction or one step (R10). -/
abbrev Outcome := Host.Outcome State Fault Refusal

/-- R37: no flag set. -/
def ResFlags.clear : ResFlags := ⟨false, false, false, false, false, false⟩

/-- R33, R231: `RES_KIND = NONE` and every other `RES_` register 0. -/
def ProbeResult.cleared : ProbeResult :=
  ⟨.none, 0, 0, 0, 0, 0, 0, 0, 0, 0, ResFlags.clear, 0⟩

/-- R230, R24, R40, R41: the block of capacity `cap` after reset. Every register is 0 but `RXCAP`; `TX` reads 0 and no
byte of `RX` is written, so memory lists nothing. The host has asked for nothing and been answered nothing. -/
def State.powerOn (cap : Half) : State where
  cmd := 0
  lastErr := .ok
  errSeen := false
  busErrSeen := false
  sact := false
  txValid := false
  timeSec := 0
  timeUsec := 0
  ident := 0
  seqLast := 0
  tsSecLast := 0
  tsUsecLast := 0
  ckSum := 0
  ckResult := 0
  res := ProbeResult.cleared
  rxcap := cap
  mem := []
  pending := []
  responses := []

/-- R230 with the reference capacity of R7. -/
def State.reset : State := State.powerOn Config.rxCapRef

end Sys2Proof.Machine
end

