-- ==== Sys2Proof/Machine/Operands.lean ====
section
/-! DEFINITION. The operand forms: byte order (spec/00_scope.md R12, spec/20_memory.md R55, R57), the register map
(spec/10_state.md R24), the address decode (R56) and the difference of two timestamps (R147). -/

namespace Sys2Proof.Machine

/-- R12: the value of two bytes, the first the more significant. -/
def be16 (x y : Byte) : Half := x ++ y

/-- R12: the value of four bytes, the first the most significant. -/
def be32 (a b c d : Byte) : Word := a ++ b ++ c ++ d

/-- R12: `[v[15:8], v[7:0]]`. -/
def bytesBe16 (v : Half) : List Byte := [v.extractLsb' 8 8, v.extractLsb' 0 8]

/-- R12: `[v[31:24], v[23:16], v[15:8], v[7:0]]`. -/
def bytesBe32 (v : Word) : List Byte :=
  [v.extractLsb' 24 8, v.extractLsb' 16 8, v.extractLsb' 8 8, v.extractLsb' 0 8]

/-- Byte `k` of a sequence. Every use is at an index below the length; past the end it is 0. -/
def byteAt (s : List Byte) (k : Nat) : Byte := s.getD k 0

/-- The big-endian 16-bit field at index `k` (R57). -/
def be16At (s : List Byte) (k : Nat) : Half := be16 (byteAt s k) (byteAt s (k + 1))

/-- The big-endian 32-bit field at index `k` (R57). -/
def be32At (s : List Byte) (k : Nat) : Word :=
  be32 (byteAt s k) (byteAt s (k + 1)) (byteAt s (k + 2)) (byteAt s (k + 3))

/-- R24: the offset of a register, which is its host address (R51). -/
def Reg.offset : Reg → Nat
  | .cmd => 0x00
  | .status => 0x04
  | .timeSec => 0x08
  | .timeUsec => 0x0C
  | .ident => 0x10
  | .seqLast => 0x14
  | .tsSecLast => 0x18
  | .tsUsecLast => 0x1C
  | .ckSum => 0x20
  | .ckResult => 0x24
  | .resKind => 0x28
  | .resBytes => 0x2C
  | .resSeq => 0x30
  | .resTtl => 0x34
  | .resRttLo => 0x38
  | .resRttHi => 0x3C
  | .resRtype => 0x40
  | .resRcode => 0x44
  | .resRid => 0x48
  | .resRseq => 0x4C
  | .resFlags => 0x50
  | .resIhl => 0x54
  | .rxcap => 0x58

/-- R24: the register at an offset. -/
def Reg.atOffset : Nat → Option Reg
  | 0x00 => some .cmd
  | 0x04 => some .status
  | 0x08 => some .timeSec
  | 0x0C => some .timeUsec
  | 0x10 => some .ident
  | 0x14 => some .seqLast
  | 0x18 => some .tsSecLast
  | 0x1C => some .tsUsecLast
  | 0x20 => some .ckSum
  | 0x24 => some .ckResult
  | 0x28 => some .resKind
  | 0x2C => some .resBytes
  | 0x30 => some .resSeq
  | 0x34 => some .resTtl
  | 0x38 => some .resRttLo
  | 0x3C => some .resRttHi
  | 0x40 => some .resRtype
  | 0x44 => some .resRcode
  | 0x48 => some .resRid
  | 0x4C => some .resRseq
  | 0x50 => some .resFlags
  | 0x54 => some .resIhl
  | 0x58 => some .rxcap
  | _ => none

/-- R56: what an address decodes to: a register, or an index into a buffer. -/
inductive Window where
  | reg (r : Reg)
  | tx (i : Nat)
  | rx (i : Nat)
  deriving DecidableEq, Repr

/-- R56 `Decode(addr, n)`, for the capacity `cap`. The order of the checks fixes the cause reported (R205). -/
def decodeAddr (n : Nat) (addr : Word) (cap : Half) : Except BusCause Window :=
  let a := addr.toNat
  if a % n ≠ 0 then .error .misaligned
  else if a + n - 1 ≤ Config.regLast then
    if n ≠ 4 then .error .size
    else
      match Reg.atOffset a with
      | some r => .ok (.reg r)
      | none => .error .unmapped
  else if Config.txBase ≤ a ∧ a + n - 1 ≤ Config.txBase + Config.txLen - 1 then
    .ok (.tx (a - Config.txBase))
  else if Config.rxBase ≤ a ∧ a + n - 1 ≤ Config.rxBase + cap.toNat - 1 then
    .ok (.rx (a - Config.rxBase))
  else .error .unmapped

/-- R147 `RttMicros`: the microseconds from the send time `(ss, su)` to the receive time `(rs, ru)`, and whether the
difference is negative. -/
def rttMicros (ss su rs ru : Word) : Nat × Bool :=
  let d : Int :=
    ((rs.toNat : Int) - (ss.toNat : Int)) * 1000000 + ((ru.toNat : Int) - (su.toNat : Int))
  if d < 0 then (0, true) else (d.toNat, false)

end Sys2Proof.Machine
end

