-- ==== Sys2Proof/Machine/OnesSum.lean ====
section
/-! DEFINITION. The checksum function of spec/40_checksum.md R100 to R104, over an arbitrary byte sequence. -/

namespace Sys2Proof.Machine

/-- R100, R101: the exact sum of the big-endian words of a sequence, an odd last byte being the high half of a
word whose low half is 0. -/
def wordSum : List Byte → Nat
  | [] => 0
  | [b] => (be16 b 0).toNat
  | x :: y :: rest => (be16 x y).toNat + wordSum rest

/-- R101: the 32-bit accumulator after the last word. -/
def accumulate (s : List Byte) : Word := BitVec.ofNat 32 (wordSum s)

/-- R102, at most `fuel` passes of the loop `while acc > 0xFFFF: acc <- acc[15:0] + (acc >> 16)`. -/
def foldLoop : Nat → Nat → Nat
  | 0, acc => acc
  | fuel + 1, acc => if acc > 0xFFFF then foldLoop fuel (acc % 0x10000 + acc / 0x10000) else acc

/-- R102 `Fold`: the loop run to its end. A 32-bit accumulator needs at most two passes (log entry 6). -/
def fold (acc : Nat) : Nat := foldLoop 32 acc

/-- R103 `OnesSum`. -/
def onesSum (s : List Byte) : Half := BitVec.ofNat 16 (fold (accumulate s).toNat)

/-- R104 `Checksum`. -/
def checksum (s : List Byte) : Half := ~~~(onesSum s)

end Sys2Proof.Machine
end

