-- ==== Sys2Proof/Machine/Flags.lean ====
section
/-! DEFINITION. The status and flag registers as the host reads them (spec/10_state.md R26, R33, R37; reserved bits
read 0, R23), and the computation of the six result flags (spec/42_parser.md R148). -/

namespace Sys2Proof.Machine

/-- R26, R200: the 4-bit code of an error. -/
def ErrCode.code : ErrCode → BitVec 4
  | .ok => 0
  | .eillegal => 1
  | .estate => 2
  | .ebadlen => 3
  | .ebadtime => 4

/-- R33: the 2-bit code of a result kind. -/
def ResKind.code : ResKind → BitVec 2
  | .none => 0
  | .ok => 1
  | .short => 2

/-- One bit. -/
def bit (b : Bool) : BitVec 1 := BitVec.ofBool b

/-- R37: the six bits of `RES_FLAGS`, `TYPE_NOT_REPLY` the highest. -/
def ResFlags.code (f : ResFlags) : BitVec 6 :=
  bit f.typeNotReply ++ bit f.rttNeg ++ bit f.ihlNot5 ++ bit f.ckBad ++ bit f.idMismatch ++ bit f.seqMismatch

/-- R26: the 32 bits of `STATUS`. -/
def State.statusWord (s : State) : Word :=
  0#22 ++ bit s.txValid ++ bit s.sact ++ 0#2 ++ bit s.busErrSeen ++ bit s.errSeen ++ s.lastErr.code

/-- R148: the flags of a reply whose IPv4 header starts with the byte `first` and whose ICMP message is `icmp` (the
bytes `RX[20..len)`), when the outgoing header state is `(ident, seq)` and R147 gives `neg`. -/
def replyFlags (first : Byte) (icmp : List Byte) (ident seq : Half) (neg : Bool) : ResFlags where
  seqMismatch := be16At icmp 6 != seq
  idMismatch := be16At icmp 4 != ident
  ckBad := checksum icmp != 0
  ihlNot5 := first.extractLsb' 0 4 != 5
  rttNeg := neg
  typeNotReply := byteAt icmp 0 != 0

end Sys2Proof.Machine
end

