-- ==== Sys2Proof/Machine/Ops.lean ====
section
/-! DEFINITION. The named operations over memory, registers and errors. The block has no traps (spec/60_exceptions.md
R211, R212): what other machines do by taking an exception it does by recording an error, a command error by
`raiseCmdError` (R201), a bus error by `raiseBusError` (R204), and there is nothing to return from. -/

namespace Sys2Proof.Machine

/-- What a buffer address that memory does not list reads as. `TX` is 0x00 after reset (R40); `RX`, which has no value
until it is written (R41), and every address outside the buffers have none. -/
def Memory.unlisted (a : Nat) : Option Byte :=
  if Config.txBase ≤ a ∧ a < Config.txBase + Config.txLen then some 0 else none

/-- The byte memory lists at an address. -/
def Memory.lookup : Memory → Nat → Option Byte
  | [], _ => none
  | (a', b) :: m, a => if a = a' then some b else Memory.lookup m a

/-- The byte at an address: the listed one, else what an unlisted address reads as. -/
def Memory.read (m : Memory) (a : Nat) : Option Byte := (Memory.lookup m a).or (Memory.unlisted a)

/-- Lists `b` at `a`, in rising order. -/
def Memory.insert : Memory → Nat → Byte → Memory
  | [], a, b => [(a, b)]
  | (a', b') :: m, a, b =>
    if a < a' then (a, b) :: (a', b') :: m
    else if a = a' then (a, b) :: m
    else (a', b') :: Memory.insert m a b

/-- Lists nothing at `a`. -/
def Memory.erase : Memory → Nat → Memory
  | [], _ => []
  | (a', b') :: m, a => if a = a' then Memory.erase m a else (a', b') :: Memory.erase m a

/-- Writes one byte, in canonical form: an entry equal to what the unlisted address reads as is not listed. -/
def Memory.write (m : Memory) (a : Nat) (b : Byte) : Memory :=
  if Memory.unlisted a = some b then Memory.erase m a else Memory.insert m a b

/-- Writes a byte sequence at rising addresses (R57). -/
def Memory.writeBytes : Memory → Nat → List Byte → Memory
  | m, _, [] => m
  | m, a, b :: bs => Memory.writeBytes (Memory.write m a b) (a + 1) bs

/-- The canonical form: addresses strictly rising, no entry equal to what its address reads as unlisted. -/
abbrev Memory.wf (m : Memory) : Prop :=
  m.Pairwise (fun c d => c.1 < d.1) ∧ ∀ c ∈ m, Memory.unlisted c.1 ≠ some c.2

/-- `TX[i]` (R40, R52). Every byte of the transmit window reads as something, so the default is never used. -/
def txByte (m : Memory) (i : Nat) : Byte := (Memory.read m (Config.txBase + i)).getD 0

/-- `TX[i..i+n)`. -/
def txRange (m : Memory) (i n : Nat) : List Byte := (List.range n).map fun k => txByte m (i + k)

/-- `RX[i]` (R41, R53), or the model fault of R207 where it has not been written. -/
def rxByte (m : Memory) (i : Nat) : Except Fault Byte :=
  match Memory.read m (Config.rxBase + i) with
  | some b => .ok b
  | none => .error (.unwritten i)

/-- `RX[i..i+n)`, read in rising order: the fault names the first byte not written. -/
def rxRange (m : Memory) : Nat → Nat → Except Fault (List Byte)
  | _, 0 => .ok []
  | i, n + 1 =>
    match rxByte m i with
    | .error f => .error f
    | .ok b =>
      match rxRange m (i + 1) n with
      | .error f => .error f
      | .ok bs => .ok (b :: bs)

/-- R24, R183: the 32 bits a register reads as. Bits above the used ones read 0 (R23). -/
def State.readReg (s : State) : Reg → Word
  | .cmd => s.cmd
  | .status => s.statusWord
  | .timeSec => s.timeSec
  | .timeUsec => s.timeUsec
  | .ident => s.ident.setWidth 32
  | .seqLast => s.seqLast.setWidth 32
  | .tsSecLast => s.tsSecLast
  | .tsUsecLast => s.tsUsecLast
  | .ckSum => s.ckSum.setWidth 32
  | .ckResult => s.ckResult.setWidth 32
  | .resKind => s.res.kind.code.setWidth 32
  | .resBytes => s.res.bytes.setWidth 32
  | .resSeq => s.res.seq.setWidth 32
  | .resTtl => s.res.ttl.setWidth 32
  | .resRttLo => s.res.rttLo
  | .resRttHi => s.res.rttHi
  | .resRtype => s.res.rtype.setWidth 32
  | .resRcode => s.res.rcode.setWidth 32
  | .resRid => s.res.rid.setWidth 32
  | .resRseq => s.res.rseq.setWidth 32
  | .resFlags => s.res.flags.code.setWidth 32
  | .resIhl => s.res.ihl.setWidth 32
  | .rxcap => s.rxcap.setWidth 32

/-- R180: answers the host. -/
def State.respond (s : State) (r : Response) : State := { s with responses := s.responses ++ [r] }

/-- R204 `raise BusError(cause)`: `STATUS.BUSERRSEEN <- 1` and the cause to the host, nothing else. -/
def State.raiseBusError (s : State) (cause : BusCause) : State :=
  { s with busErrSeen := true, responses := s.responses ++ [.busError cause] }

/-- R201 `raise CmdError(code)`: `STATUS.LASTERR <- code` and `STATUS.ERRSEEN <- 1`, nothing else. -/
def State.raiseCmdError (s : State) (code : ErrCode) : State := { s with lastErr := code, errSeen := true }

/-- R202: a command that completes writes `STATUS.LASTERR <- 0` and leaves `ERRSEEN`. -/
def State.completeCmd (s : State) : State := { s with lastErr := .ok }

/-- R25: the write to `CMD` stores the word. -/
def State.storeCmd (s : State) (w : Word) : State := { s with cmd := w }

/-- R27, R186: the write to `TIME_SEC`. -/
def State.setTimeSec (s : State) (w : Word) : State := { s with timeSec := w }

/-- R27, R186: the write to `TIME_USEC`. -/
def State.setTimeUsec (s : State) (w : Word) : State := { s with timeUsec := w }

/-- R13 `MemWrite`, R41: the host's write of bytes to `RX` from host address `a` on. Listing a byte is what marks it
written (R20). -/
def State.memWrite (s : State) (a : Nat) (bs : List Byte) : State :=
  { s with mem := Memory.writeBytes s.mem a bs }

/-- R105, R106: `CK_SUM` and `CK_RESULT` of a byte sequence. -/
def State.setChecksum (s : State) (bs : List Byte) : State :=
  { s with ckSum := onesSum bs, ckResult := checksum bs }

/-- R149 `SetResult`: all twelve `RES_` registers in one step. -/
def State.setResult (s : State) (r : ProbeResult) : State := { s with res := r }

/-- The next event of the host is taken. -/
def State.takeEvent (s : State) (rest : List HostEvent) : State := { s with pending := rest }

/-- R230: reset sets every register, `TX` and `RX` "whatever the state before"; `RXCAP` keeps its constant. The host's
own record of what it asks and was answered is no part of the block. -/
def State.applyReset (s : State) : State :=
  { State.powerOn s.rxcap with pending := s.pending, responses := s.responses }

end Sys2Proof.Machine
end

