-- ==== Sys2Proof/Machine/Builder.lean ====
section
/-! DEFINITION. The Packet Builder (spec/41_assembler.md R120 to R122). -/

namespace Sys2Proof.Machine

/-- R121: the filler, the bytes 8, 9, ..., 55. -/
def filler : List Byte := (List.range Config.fillerLen).map fun i => BitVec.ofNat 8 (8 + i)

/-- R120: the 64 bytes of an echo request whose checksum field holds `c`. -/
def packetWith (c id seq : Half) (sec usec : Word) : List Byte :=
  [0x08, 0x00] ++ bytesBe16 c ++ bytesBe16 id ++ bytesBe16 seq ++ bytesBe32 sec ++ bytesBe32 usec ++ filler

/-- R122: the checksum over all 64 bytes with the checksum field 0. -/
def packetChecksum (id seq : Half) (sec usec : Word) : Half := checksum (packetWith 0 id seq sec usec)

/-- R120, R122: the echo request, its checksum spliced in. -/
def echoRequest (id seq : Half) (sec usec : Word) : List Byte :=
  packetWith (packetChecksum id seq sec usec) id seq sec usec

/-- R122, the effects of `BUILD`: the packet goes to `TX`, the outgoing header state is latched, the packet is valid. -/
def State.latchPacket (s : State) (seq : Half) : State :=
  { s with
    mem := Memory.writeBytes s.mem Config.txBase (echoRequest s.ident seq s.timeSec s.timeUsec)
    seqLast := seq
    tsSecLast := s.timeSec
    tsUsecLast := s.timeUsec
    txValid := true }

/-- R122 `BUILD seq`. -/
def execBuild (seq : Half) (s : State) : Outcome :=
  if s.sact = false then .next (s.raiseCmdError .estate)
  else if s.timeUsec.toNat ≥ Config.usecPerSec then .next (s.raiseCmdError .ebadtime)
  else .next (s.latchPacket seq).completeCmd

end Sys2Proof.Machine
end

