-- ==== Sys2Proof/Machine/Checksum.lean ====
section
/-! DEFINITION. The Checksum Engine's commands (spec/40_checksum.md R105, R106). A command's meaning is what R75's
dispatch runs: the word is already in `CMD` and the answer to the `WR32` is the write's own (log entry 7). -/

namespace Sys2Proof.Machine

/-- R105 `CKSUM len`: the checksum of `RX[0..len)`. -/
def execCksum (len : Half) (s : State) : Outcome :=
  if len.toNat > s.rxcap.toNat then .next (s.raiseCmdError .ebadlen)
  else
    match rxRange s.mem 0 len.toNat with
    | .error f => .fault f
    | .ok bs => .next (s.setChecksum bs).completeCmd

/-- R106 `CKTX`: the checksum of `TX[0..64)`. -/
def execCktx (s : State) : Outcome :=
  .next (s.setChecksum (txRange s.mem 0 Config.txLen)).completeCmd

end Sys2Proof.Machine
end

