-- ==== Sys2Proof/Machine/Control.lean ====
section
/-! DEFINITION. Session control (spec/43_control.md R170 to R172). -/

namespace Sys2Proof.Machine

/-- R171, the effects of `SESSION`: the identifier is set, the outgoing header state and every `RES_` register are
cleared, the session is active and holds no packet. -/
def State.openSession (s : State) (id : Half) : State :=
  { s with
    ident := id
    seqLast := 0
    tsSecLast := 0
    tsUsecLast := 0
    res := ProbeResult.cleared
    sact := true
    txValid := false }

/-- R172, the effects of `END`. -/
def State.closeSession (s : State) : State := { s with sact := false, txValid := false }

/-- R170 `NOP`: nothing but the completion of R202. -/
def execNop (s : State) : Outcome := .next s.completeCmd

/-- R171 `SESSION id`. -/
def execSession (id : Half) (s : State) : Outcome := .next (s.openSession id).completeCmd

/-- R172 `END`. -/
def execEnd (s : State) : Outcome := .next s.closeSession.completeCmd

end Sys2Proof.Machine
end

