-- ==== Sys2Proof/Machine/Parser.lean ====
section
/-! DEFINITION. The Packet Parser (spec/42_parser.md R140 to R151). -/

namespace Sys2Proof.Machine

/-- R140: the bytes the parser reads: `RX[0]`, `RX[8]` and the ICMP message `RX[20..len)`. -/
structure ReplyBytes where
  first : Byte
  ttl : Byte
  icmp : List Byte
  deriving DecidableEq, Repr

/-- R149: reads `RX[0]`, `RX[8]`, `RX[20..len)`, in this order; the fault names the first not written. -/
def readReply (m : Memory) (len : Nat) : Except Fault ReplyBytes :=
  match rxByte m 0 with
  | .error f => .error f
  | .ok first =>
    match rxByte m 8 with
    | .error f => .error f
    | .ok ttl =>
      match rxRange m Config.ipHdrLen (len - Config.ipHdrLen) with
      | .error f => .error f
      | .ok icmp => .ok ⟨first, ttl, icmp⟩

/-- R151: the `SHORT` result. -/
def shortResult (seq : Half) : ProbeResult := { ProbeResult.cleared with kind := .short, seq := seq }

/-- R142 to R148: the `OK` result of a reply of `len` bytes, from the outgoing header state and the receive time. -/
def replyResult (s : State) (len : Half) (r : ReplyBytes) : ProbeResult :=
  let (d, neg) := rttMicros s.tsSecLast s.tsUsecLast s.timeSec s.timeUsec
  let rtt : BitVec 64 := BitVec.ofNat 64 d
  { kind := .ok
    bytes := BitVec.ofNat 16 (len.toNat - Config.ipHdrLen)
    seq := s.seqLast
    ttl := r.ttl
    rttLo := rtt.extractLsb' 0 32
    rttHi := rtt.extractLsb' 32 32
    rtype := byteAt r.icmp 0
    rcode := byteAt r.icmp 1
    rid := be16At r.icmp 4
    rseq := be16At r.icmp 6
    flags := replyFlags r.first r.icmp s.ident s.seqLast neg
    ihl := r.first.extractLsb' 0 4 }

/-- R149 `PARSE len`. -/
def execParse (len : Half) (s : State) : Outcome :=
  if s.txValid = false then .next (s.raiseCmdError .estate)
  else if len.toNat > s.rxcap.toNat then .next (s.raiseCmdError .ebadlen)
  else if s.timeUsec.toNat ≥ Config.usecPerSec then .next (s.raiseCmdError .ebadtime)
  else if len.toNat < Config.minReplyLen then .next (s.setResult (shortResult s.seqLast)).completeCmd
  else
    match readReply s.mem len.toNat with
    | .error f => .fault f
    | .ok r => .next (s.setResult (replyResult s len r)).completeCmd

end Sys2Proof.Machine
end

