-- ==== Sys2Proof/Machine/Bus.lean ====
section
/-! DEFINITION. The host bus transactions (spec/44_host_bus.md R180 to R187) and the command dispatch a `WR32` to `CMD`
runs (spec/30_encoding.md R75). -/

namespace Sys2Proof.Machine

/-- R180: the access of `n` bytes at `addr`: the bus error of the address decode, or what the window does. -/
def busAccess (n : Nat) (addr : Word) (s : State) (onWindow : Window → Outcome) : Outcome :=
  match decodeAddr n addr s.rxcap with
  | .error cause => .next (s.raiseBusError cause)
  | .ok w => onWindow w

/-- R181 to R183: a read of `n` bytes from a buffer, answered through `pack`, or of a register, answered by `onReg`. -/
def busRead (n : Nat) (addr : Word) (s : State) (pack : List Byte → Response) (onReg : Reg → Outcome) : Outcome :=
  busAccess n addr s fun
    | .reg r => onReg r
    | .tx i => .next (s.respond (pack (txRange s.mem i n)))
    | .rx i =>
      match rxRange s.mem i n with
      | .error f => .fault f
      | .ok bs => .next (s.respond (pack bs))

/-- R184 to R186: a write of the `n` bytes `bs`. `TX` is read-only to the host; a register is written by `onReg`. -/
def busWrite (n : Nat) (addr : Word) (s : State) (bs : List Byte) (onReg : Reg → Outcome) : Outcome :=
  busAccess n addr s fun
    | .reg r => onReg r
    | .tx _ => .next (s.raiseBusError .readOnly)
    | .rx _ => .next ((s.memWrite addr.toNat bs).respond .done)

/-- R181 and following: a register reached by a narrow access. The address decode has raised `SIZE` before this. -/
def narrowReg (s : State) (_ : Reg) : Outcome := .next (s.raiseBusError .size)

/-- R181 `RD8`. -/
def execRd8 (addr : Word) (s : State) : Outcome :=
  busRead 1 addr s (fun bs => .data8 (byteAt bs 0)) (narrowReg s)

/-- R182 `RD16`. -/
def execRd16 (addr : Word) (s : State) : Outcome :=
  busRead 2 addr s (fun bs => .data16 (be16At bs 0)) (narrowReg s)

/-- R183 `RD32`. -/
def execRd32 (addr : Word) (s : State) : Outcome :=
  busRead 4 addr s (fun bs => .data32 (be32At bs 0)) fun r => .next (s.respond (.data32 (s.readReg r)))

/-- R180: a write whose data does not fit its `n` bytes is refused; no such transaction exists on the bus. -/
def refuseWide (n : Nat) (data : Word) (o : Outcome) : Outcome :=
  if dataFits n data then o else .refused .dataTooWide

/-- R184 `WR8`. -/
def execWr8 (addr data : Word) (s : State) : Outcome :=
  refuseWide 1 data (busWrite 1 addr s [data.extractLsb' 0 8] (narrowReg s))

/-- R185 `WR16`. -/
def execWr16 (addr data : Word) (s : State) : Outcome :=
  refuseWide 2 data (busWrite 2 addr s (bytesBe16 (data.extractLsb' 0 16)) (narrowReg s))

/-- R75, the case of `ExecCommand`. A command word never decodes to a transaction (`decodeCommand_isCommand`), so the
last six arms are not reached; they answer as an illegal word would. -/
def runCommand (i : Instr) (s : State) : Outcome :=
  match i with
  | .nop => execNop s
  | .session id => execSession id s
  | .build seq => execBuild seq s
  | .parse len => execParse len s
  | .cksum len => execCksum len s
  | .cktx => execCktx s
  | .endSession => execEnd s
  | .rd8 _ => .next (s.raiseCmdError .eillegal)
  | .rd16 _ => .next (s.raiseCmdError .eillegal)
  | .rd32 _ => .next (s.raiseCmdError .eillegal)
  | .wr8 _ _ => .next (s.raiseCmdError .eillegal)
  | .wr16 _ _ => .next (s.raiseCmdError .eillegal)
  | .wr32 _ _ => .next (s.raiseCmdError .eillegal)

/-- R75 `ExecCommand(w)`. -/
def execCommandWord (w : Word) (s : State) : Outcome :=
  match decodeCommand w with
  | .error _ => .next (s.raiseCmdError .eillegal)
  | .ok i => runCommand i s

/-- R186, R201: the bus answers `Ok` to the `WR32` that carried a command, whether the command completed or errored. -/
def answerDone : Outcome → Outcome
  | .next t => .next (t.respond .done)
  | .fault f => .fault f
  | .refused r => .refused r

/-- R186: a `WR32` to a register. Only `CMD`, `TIME_SEC` and `TIME_USEC` are writable (R28). -/
def writeReg (data : Word) (s : State) : Reg → Outcome
  | .cmd => answerDone (execCommandWord data (s.storeCmd data))
  | .timeSec => .next ((s.setTimeSec data).respond .done)
  | .timeUsec => .next ((s.setTimeUsec data).respond .done)
  | .status => .next (s.raiseBusError .readOnly)
  | .ident => .next (s.raiseBusError .readOnly)
  | .seqLast => .next (s.raiseBusError .readOnly)
  | .tsSecLast => .next (s.raiseBusError .readOnly)
  | .tsUsecLast => .next (s.raiseBusError .readOnly)
  | .ckSum => .next (s.raiseBusError .readOnly)
  | .ckResult => .next (s.raiseBusError .readOnly)
  | .resKind => .next (s.raiseBusError .readOnly)
  | .resBytes => .next (s.raiseBusError .readOnly)
  | .resSeq => .next (s.raiseBusError .readOnly)
  | .resTtl => .next (s.raiseBusError .readOnly)
  | .resRttLo => .next (s.raiseBusError .readOnly)
  | .resRttHi => .next (s.raiseBusError .readOnly)
  | .resRtype => .next (s.raiseBusError .readOnly)
  | .resRcode => .next (s.raiseBusError .readOnly)
  | .resRid => .next (s.raiseBusError .readOnly)
  | .resRseq => .next (s.raiseBusError .readOnly)
  | .resFlags => .next (s.raiseBusError .readOnly)
  | .resIhl => .next (s.raiseBusError .readOnly)
  | .rxcap => .next (s.raiseBusError .readOnly)

/-- R186 `WR32`. -/
def execWr32 (addr data : Word) (s : State) : Outcome :=
  busWrite 4 addr s (bytesBe32 data) (writeReg data s)

end Sys2Proof.Machine
end

