-- ==== Sys2Proof/Machine/Transact.lean ====
section
/-! DEFINITION. What a step does with the host's next event (spec/44_host_bus.md R180, R187; R230). -/

namespace Sys2Proof.Machine

/-- R180 `Step(TC, addr, wdata)`: a reserved code answers `BusError(BADCODE)` before any address check (R187), data that
does not fit is refused, and a transaction runs. -/
def runRequest (r : BusRequest) (s : State) : Outcome :=
  match decodeRequest r with
  | .error .badCode => .next (s.raiseBusError .badCode)
  | .error .dataTooWide => .refused .dataTooWide
  | .ok i => exec i s

/-- One event of the host. -/
def runEvent (e : HostEvent) (s : State) : Outcome :=
  match e with
  | .request r => runRequest r s
  | .reset => .next s.applyReset

/-- R9: one step takes the host's next event. With none to take the block "is idle between transactions and keeps all
state" (R215; log entry 1). -/
def runNext (s : State) : Outcome :=
  match s.pending with
  | [] => .next s
  | e :: rest => runEvent e (s.takeEvent rest)

end Sys2Proof.Machine
end

