-- ==== Sys2Proof/Machine/Step.lean ====
section
/-! DEFINITION. One step of the machine, and how a row's bits are placed where the step takes them. -/

namespace Sys2Proof.Machine

/-- R9, R10: one step. -/
def step (s : State) : Host.Outcome State Fault Refusal := runNext s

/-- `s` with the transaction that presents a row's bits as the host's next event (log entry 1). -/
def State.withFetchWord (s : State) (nbits w : Nat) : State :=
  { s with pending := .request (tableRequest nbits w) :: s.pending }

end Sys2Proof.Machine
end

