-- ==== Sys2Proof/Safety.lean ====
section
/-! DEFINITION. What the statements call a good state, and the words they share, each written from the spec's tables and
not from the meanings: the windows, the bus error of a transaction, the writers of a register, the words of a
byte sequence, the bytes of a packet. -/

namespace Sys2Proof.Machine

/-- R52: a byte address of the transmit window. -/
abbrev inTxWindow (a : Nat) : Prop := 0x1000 ≤ a ∧ a ≤ 0x103F

/-- R53: a byte address of the receive window of a block of capacity `cap`. -/
abbrev inRxWindow (cap : Half) (a : Nat) : Prop := 0x10000 ≤ a ∧ a < 0x10000 + cap.toNat

/-- R51: a byte address of the register window. -/
abbrev inRegWindow (a : Nat) : Prop := a ≤ 0x5B

/-- R54: a byte address that lies in a window. -/
abbrev byteMapped (cap : Half) (a : Nat) : Prop := inRegWindow a ∨ inTxWindow a ∨ inRxWindow cap a

/-- R205, priorities 2 to 4: the bus error of an access of `n` bytes at `a`, whether it reads or writes. -/
def accessError (n a : Nat) (cap : Half) : Option BusCause :=
  if a % n ≠ 0 then some .misaligned
  else if n ≠ 4 ∧ inRegWindow a then some .size
  else if ∀ k < n, byteMapped cap (a + k) then none
  else some .unmapped

/-- R205, priority 5, and R28: an address the host may not write. -/
abbrev readOnlyAt (a : Nat) : Prop := inTxWindow a ∨ (inRegWindow a ∧ a ≠ 0x00 ∧ a ≠ 0x08 ∧ a ≠ 0x0C)

/-- R78, R187: a reserved transaction code. -/
abbrev reservedCode (tc : BitVec 4) : Prop := tc = 0b0011 ∨ tc = 0b1011 ∨ tc.getLsbD 2 = true

/-- R72: the access width in bytes, `1 << SZ`. -/
def codeWidth (tc : BitVec 4) : Nat := 2 ^ (tc.extractLsb' 0 2).toNat

/-- R205: the bus error of a transaction, the first cause that applies. -/
def firstBusError (r : BusRequest) (cap : Half) : Option BusCause :=
  if reservedCode r.tc then some .badCode
  else
    match accessError (codeWidth r.tc) r.addr.toNat cap with
    | some c => some c
    | none => if r.tc.getLsbD 3 = true ∧ readOnlyAt r.addr.toNat then some .readOnly else none

/-- R200: the command words that are illegal. -/
abbrev illegalWord (w : Word) : Prop :=
  w.extractLsb' 16 8 ≠ 0 ∨ 7 ≤ (w.extractLsb' 24 8).toNat ∨
    ((w.extractLsb' 24 8 = 0 ∨ w.extractLsb' 24 8 = 5 ∨ w.extractLsb' 24 8 = 6) ∧ w.extractLsb' 0 16 ≠ 0)

/-- The command an instruction executes: its own, or the one a `WR32` to `CMD` carries (R70, R186). -/
def commandOf : Instr → Option Instr
  | .nop => some .nop
  | .session id => some (.session id)
  | .build seq => some (.build seq)
  | .parse len => some (.parse len)
  | .cksum len => some (.cksum len)
  | .cktx => some .cktx
  | .endSession => some .endSession
  | .rd8 _ => none
  | .rd16 _ => none
  | .rd32 _ => none
  | .wr8 _ _ => none
  | .wr16 _ _ => none
  | .wr32 addr data => if addr = 0 then (decodeCommand data).toOption else none

/-- An instruction that executes a `SESSION`. -/
abbrev runsSession (i : Instr) : Prop := ∃ id, commandOf i = some (.session id)

/-- An instruction that executes a `BUILD`. -/
abbrev runsBuild (i : Instr) : Prop := ∃ seq, commandOf i = some (.build seq)

/-- An instruction that executes a `PARSE`. -/
abbrev runsParse (i : Instr) : Prop := ∃ len, commandOf i = some (.parse len)

/-- An instruction that executes a `CKSUM` or a `CKTX`. -/
abbrev runsChecksum (i : Instr) : Prop := (∃ len, commandOf i = some (.cksum len)) ∨ commandOf i = some .cktx

/-- R24, the column "Written by": the instructions that may change a register. -/
def mayWrite (i : Instr) : Reg → Prop
  | .cmd => ∃ data, i = .wr32 0 data
  | .status => True
  | .timeSec => ∃ data, i = .wr32 0x08 data
  | .timeUsec => ∃ data, i = .wr32 0x0C data
  | .ident => runsSession i
  | .seqLast => runsSession i ∨ runsBuild i
  | .tsSecLast => runsSession i ∨ runsBuild i
  | .tsUsecLast => runsSession i ∨ runsBuild i
  | .ckSum => runsChecksum i
  | .ckResult => runsChecksum i
  | .resKind => runsSession i ∨ runsParse i
  | .resBytes => runsSession i ∨ runsParse i
  | .resSeq => runsSession i ∨ runsParse i
  | .resTtl => runsSession i ∨ runsParse i
  | .resRttLo => runsSession i ∨ runsParse i
  | .resRttHi => runsSession i ∨ runsParse i
  | .resRtype => runsSession i ∨ runsParse i
  | .resRcode => runsSession i ∨ runsParse i
  | .resRid => runsSession i ∨ runsParse i
  | .resRseq => runsSession i ∨ runsParse i
  | .resFlags => runsSession i ∨ runsParse i
  | .resIhl => runsSession i ∨ runsParse i
  | .rxcap => False

/-- R24, the column "used bits": how many bits of a register are used, counted from bit 0. -/
def Reg.usedBits : Reg → Nat
  | .cmd => 32
  | .status => 10
  | .timeSec => 32
  | .timeUsec => 32
  | .ident => 16
  | .seqLast => 16
  | .tsSecLast => 32
  | .tsUsecLast => 32
  | .ckSum => 16
  | .ckResult => 16
  | .resKind => 2
  | .resBytes => 16
  | .resSeq => 16
  | .resTtl => 8
  | .resRttLo => 32
  | .resRttHi => 32
  | .resRtype => 8
  | .resRcode => 8
  | .resRid => 16
  | .resRseq => 16
  | .resFlags => 6
  | .resIhl => 4
  | .rxcap => 16

/-- R100: the words of a byte sequence. -/
def wordsOf : List Byte → List Half
  | [] => []
  | [b] => [b ++ 0#8]
  | x :: y :: rest => (x ++ y) :: wordsOf rest

/-- R101: the exact sum of the words. -/
def exactSum (s : List Byte) : Nat := ((wordsOf s).map BitVec.toNat).sum

/-- The bytes of `bs` are what memory holds from address `a` on. -/
abbrev holdsAt (m : Memory) (a : Nat) (bs : List Byte) : Prop :=
  ∀ k < bs.length, Memory.read m (a + k) = bs[k]?

/-- R147: the difference in microseconds of the receive time `(rs, ru)` and the send time `(ss, su)`. -/
def microsBetween (ss su rs ru : Word) : Int :=
  ((rs.toNat : Int) - ss.toNat) * 1000000 + ((ru.toNat : Int) - su.toNat)

/-- R120: the bytes of an echo request whose checksum field holds `c`. -/
def requestBytes (c id seq : Half) (sec usec : Word) : List Byte :=
  [0x08, 0x00, c.extractLsb' 8 8, c.extractLsb' 0 8,
    id.extractLsb' 8 8, id.extractLsb' 0 8, seq.extractLsb' 8 8, seq.extractLsb' 0 8,
    sec.extractLsb' 24 8, sec.extractLsb' 16 8, sec.extractLsb' 8 8, sec.extractLsb' 0 8,
    usec.extractLsb' 24 8, usec.extractLsb' 16 8, usec.extractLsb' 8 8, usec.extractLsb' 0 8] ++
  (List.range 48).map fun i => BitVec.ofNat 8 (8 + i)

/-- R33, R149, R151, R147: what each kind of result says of the other `RES_` registers. -/
def State.ResultShape (s : State) : Prop :=
  match s.res.kind with
  | .none => s.res = ProbeResult.cleared
  | .short => s.res = shortResult s.res.seq
  | .ok =>
    8 ≤ s.res.bytes.toNat ∧ s.res.bytes.toNat + 20 ≤ s.rxcap.toNat ∧
    (s.res.rttHi ++ s.res.rttLo).toNat < 2 ^ 52 ∧
    (s.res.flags.rttNeg = true → s.res.rttHi = 0 ∧ s.res.rttLo = 0)

/-- The invariant of the block. -/
structure State.Inv (s : State) : Prop where
  /-- Memory is in canonical form. -/
  canonical : Memory.wf s.mem
  /-- Memory lists bytes of the two buffers only (R52, R53). -/
  mapped : ∀ c ∈ s.mem, inTxWindow c.1 ∨ inRxWindow s.rxcap c.1
  /-- R7. -/
  capacity : 28 ≤ s.rxcap.toNat
  /-- R26: `TXVALID = 1` implies `SACT = 1`. -/
  validActive : s.txValid = true → s.sact = true
  /-- R26: `TXVALID = 1` says that `TX` holds the packet the outgoing header state describes. -/
  packetHeld : s.txValid = true →
    txRange s.mem 0 64 = echoRequest s.ident s.seqLast s.tsSecLast s.tsUsecLast
  /-- R122, R171: the latched send time is a legal one. -/
  sendTime : s.tsUsecLast.toNat < 1000000
  /-- R33, R149, R151. -/
  resultShape : s.ResultShape
  /-- R32, R104: the two `CK_` registers belong together (both 0 after reset). -/
  checksumPair : (s.ckSum = 0 ∧ s.ckResult = 0) ∨ s.ckResult = ~~~s.ckSum

end Sys2Proof.Machine
end

