-- ==== Sys2Proof/Certificates/Slice0/Obligations.lean ====
section
/-! DEFINITION. The statements about the ICMP echo unit, for the provers. Each says which rule of the spec it
formalises. -/

open Sys2Proof Sys2Proof.Machine

/-! ## Encoding -/

/-- R71 to R74: decoding the encoding of a well-formed instruction gives it back, whatever its operands. -/
def Obligations.DecodeOfEncodeIsTheInstruction : Prop :=
  ∀ i : Instr, i.wellFormed = true → decode (encode i) = .ok i

/-- R71 to R74, the other direction: what decodes is well formed and is encoded by the bits it was decoded from, but
for the data of a read, which carries none. -/
def Obligations.EncodeOfDecodeIsTheEncoding : Prop :=
  (∀ (w : Word) (i : Instr), decode (.command w) = .ok i →
    i.wellFormed = true ∧ i.isCommand = true ∧ encode i = .command w) ∧
  (∀ (r : BusRequest) (i : Instr), decode (.request r) = .ok i →
    i.wellFormed = true ∧ i.isCommand = false ∧
      encode i = .request ⟨r.tc, r.addr, if r.tc.getLsbD 3 = true then r.wdata else 0⟩)

/-- R73, R74: a few words written out from the tables decode to what they stand for. -/
def Obligations.WrittenOutWordsDecode : Prop :=
  decodeCommand 0x00000000 = .ok .nop ∧
  decodeCommand 0x010004D2 = .ok (.session 0x04D2) ∧
  decodeCommand 0x0200FFFF = .ok (.build 0xFFFF) ∧
  decodeCommand 0x03000054 = .ok (.parse 84) ∧
  decodeCommand 0x04000008 = .ok (.cksum 8) ∧
  decodeCommand 0x05000000 = .ok .cktx ∧
  decodeCommand 0x06000000 = .ok .endSession ∧
  decodeRequest ⟨0b0000, 0x1003, 0⟩ = .ok (.rd8 0x1003) ∧
  decodeRequest ⟨0b0001, 0x1002, 0⟩ = .ok (.rd16 0x1002) ∧
  decodeRequest ⟨0b0010, 0x58, 0⟩ = .ok (.rd32 0x58) ∧
  decodeRequest ⟨0b1000, 0x10000, 0x45⟩ = .ok (.wr8 0x10000 0x45) ∧
  decodeRequest ⟨0b1001, 0x10002, 0x0054⟩ = .ok (.wr16 0x10002 0x0054) ∧
  decodeRequest ⟨0b1010, 0x0C, 0x000F4240⟩ = .ok (.wr32 0x0C 0x000F4240)

/-- R77: an illegal command word ends in `EILLEGAL` and changes nothing but `CMD` and `STATUS`; every other word is one
of the seven commands with its operand, and no word is both. -/
def Obligations.EveryCommandWordIsACommandOrIllegal : Prop :=
  (∀ (s : State) (w : Word), illegalWord w →
    exec (.wr32 0 w) s =
      .next { s with cmd := w, lastErr := .eillegal, errSeen := true, responses := s.responses ++ [.done] }) ∧
  (∀ w : Word, (∃ c, c.isCommand = true ∧ encode c = .command w ∧ decodeCommand w = .ok c) ↔ ¬ illegalWord w)

/-! ## Steps -/

/-- R180, R9: a step whose next event is a transaction that decodes runs its instruction, on the state with the event
taken. -/
def Obligations.StepRunsTheDecodedTransaction : Prop :=
  ∀ (s : State) (r : BusRequest) (rest : List HostEvent) (i : Instr),
    s.pending = .request r :: rest → decodeRequest r = .ok i → step s = exec i { s with pending := rest }

/-- R75, R186: a `WR32` to `CMD` stores the word and runs the command it encodes in the same step; the bus answers `Ok`
whether the command completes or errors, and a fault of the command is the step's. -/
def Obligations.CommandWriteStoresTheWordAndRunsTheCommand : Prop :=
  ∀ (s : State) (w : Word) (c : Instr), decodeCommand w = .ok c →
    (∀ t, exec c { s with cmd := w } = .next t →
      exec (.wr32 0 w) s = .next { t with responses := t.responses ++ [.done] }) ∧
    (∀ f, exec c { s with cmd := w } = .fault f → exec (.wr32 0 w) s = .fault f) ∧
    (∀ r, exec c { s with cmd := w } ≠ .refused r)

/-- The model's placing of a table row (log entry 5): the very next step runs the row's instruction, a transaction
directly and a command through its carrier. -/
def Obligations.PlacedRowRunsNext : Prop :=
  (∀ (s : State) (w : Nat) (i : Instr), decodeTableWord 8 w = some i →
    step (s.withFetchWord 8 w) = exec i s) ∧
  (∀ (s : State) (w : Nat) (c : Instr), decodeTableWord 32 w = some c →
    step (s.withFetchWord 32 w) = exec (.wr32 0 (BitVec.ofNat 32 w)) s ∧
    ∀ t, exec c { s with cmd := BitVec.ofNat 32 w } = .next t →
      step (s.withFetchWord 32 w) = .next { t with responses := t.responses ++ [.done] })

/-- R204, R205 (with R54, R56, R58, R59, R187): the bus error reported is the first cause that applies, and the transaction
has no effect but `BUSERRSEEN` and its answer. The data of a narrow write fits (R180). -/
def Obligations.BusErrorIsTheFirstCauseAndChangesNothingElse : Prop :=
  ∀ (s : State) (r : BusRequest) (rest : List HostEvent) (c : BusCause),
    s.pending = .request r :: rest → decodeRequest r ≠ .error .dataTooWide →
    firstBusError r s.rxcap = some c →
    step s = .next { s with
      pending := rest, busErrSeen := true, responses := s.responses ++ [.busError c] }

/-- R180, last sentence: a write whose data does not fit its width is refused, on the bus and as an instruction. -/
def Obligations.WriteWhoseDataDoesNotFitIsRefused : Prop :=
  ∀ (s : State) (rest : List HostEvent) (addr data : Word),
    (2 ^ 8 ≤ data.toNat → exec (.wr8 addr data) s = .refused .dataTooWide ∧
      (s.pending = .request ⟨0b1000, addr, data⟩ :: rest → step s = .refused .dataTooWide)) ∧
    (2 ^ 16 ≤ data.toNat → exec (.wr16 addr data) s = .refused .dataTooWide ∧
      (s.pending = .request ⟨0b1001, addr, data⟩ :: rest → step s = .refused .dataTooWide))

/-- R10: a step answers a next state or the model fault, and the fault names a byte of `RX` not written. The one refusal
is of a write whose data does not fit (R180). -/
def Obligations.StepAnswersNextStateOrUnwrittenFault : Prop :=
  ∀ s : State,
    (∃ t, step s = .next t) ∨
    (∃ i, step s = .fault (.unwritten i) ∧ i < s.rxcap.toNat ∧ Memory.read s.mem (0x10000 + i) = none) ∨
    (step s = .refused .dataTooWide ∧
      ∃ r rest, s.pending = .request r :: rest ∧
        ((r.tc = 0b1000 ∧ 2 ^ 8 ≤ r.wdata.toNat) ∨ (r.tc = 0b1001 ∧ 2 ^ 16 ≤ r.wdata.toNat)))

/-- R9, R10: every transaction that does not end the run is answered exactly once; reset is answered by nothing. -/
def Obligations.EveryTransactionIsAnsweredOnce : Prop :=
  ∀ (s t : State) (e : HostEvent) (rest : List HostEvent),
    s.pending = e :: rest → step s = .next t →
    t.pending = rest ∧
    match e with
    | .request _ => ∃ a, t.responses = s.responses ++ [a]
    | .reset => t.responses = s.responses

/-- R215: between transactions the block is idle and keeps all state (log entry 1: a step with no event). -/
def Obligations.IdleStepKeepsAllState : Prop :=
  ∀ s : State, s.pending = [] → step s = .next s

/-! ## Reset -/

/-- R230: reset sets every register to its reset value, `TX` to 0x00 and every `RX` byte to not written, whatever the
state before; `RXCAP` keeps its value. The host's own record stays (log entry 2). -/
def Obligations.ResetStepSetsEverythingWhateverTheStateBefore : Prop :=
  (∀ (s : State) (rest : List HostEvent), s.pending = .reset :: rest →
    step s = .next
      { cmd := 0, lastErr := .ok, errSeen := false, busErrSeen := false, sact := false, txValid := false,
        timeSec := 0, timeUsec := 0, ident := 0, seqLast := 0, tsSecLast := 0, tsUsecLast := 0,
        ckSum := 0, ckResult := 0,
        res := ⟨.none, 0, 0, 0, 0, 0, 0, 0, 0, 0, ⟨false, false, false, false, false, false⟩, 0⟩,
        rxcap := s.rxcap, mem := [], pending := rest, responses := s.responses }) ∧
  (∀ i < 64, Memory.read [] (0x1000 + i) = some 0) ∧
  (∀ i, Memory.read [] (0x10000 + i) = none)

/-- R231, R46, R24: what every register reads after reset with the reference capacity, and what the buffers hold. -/
def Obligations.ResetStateReadsAsTheTableSays : Prop :=
  (∀ r : Reg, State.reset.readReg r = if r = .rxcap then 0xFFFF else 0) ∧
  State.reset.sact = false ∧ State.reset.txValid = false ∧ State.reset.res.kind = .none ∧
  State.reset.ckSum = 0 ∧ State.reset.ckResult = 0 ∧ State.reset.lastErr = .ok ∧
  (∀ i < 64, Memory.read State.reset.mem (0x1000 + i) = some 0) ∧
  (∀ i, Memory.read State.reset.mem (0x10000 + i) = none)

/-- The invariant holds after reset. -/
def Obligations.ResetMeetsTheInvariant : Prop := State.reset.Inv

/-- Every step from every state that meets the invariant keeps it: memory in canonical form and within the buffers
(R52, R53), `TXVALID` implies `SACT` and says that `TX` holds the packet of the outgoing header state (R26), the
latched send time is legal (R122), and the result registers fit their kind (R33, R147, R151). -/
def Obligations.EveryStepKeepsTheInvariant : Prop :=
  ∀ s t : State, s.Inv → step s = .next t → t.Inv

/-! ## Registers -/

/-- R26, R37: the bits of `STATUS` and of `RES_FLAGS` as the host reads them. -/
def Obligations.StatusAndFlagBitsReadAtTheirPlaces : Prop :=
  ∀ s : State,
    (s.readReg .status).extractLsb' 0 4 =
      (match s.lastErr with | .ok => 0 | .eillegal => 1 | .estate => 2 | .ebadlen => 3 | .ebadtime => 4) ∧
    (s.readReg .status).getLsbD 4 = s.errSeen ∧
    (s.readReg .status).getLsbD 5 = s.busErrSeen ∧
    (s.readReg .status).extractLsb' 6 2 = 0 ∧
    (s.readReg .status).getLsbD 8 = s.sact ∧
    (s.readReg .status).getLsbD 9 = s.txValid ∧
    (s.readReg .status).extractLsb' 10 22 = 0 ∧
    (s.readReg .resFlags).getLsbD 0 = s.res.flags.seqMismatch ∧
    (s.readReg .resFlags).getLsbD 1 = s.res.flags.idMismatch ∧
    (s.readReg .resFlags).getLsbD 2 = s.res.flags.ckBad ∧
    (s.readReg .resFlags).getLsbD 3 = s.res.flags.ihlNot5 ∧
    (s.readReg .resFlags).getLsbD 4 = s.res.flags.rttNeg ∧
    (s.readReg .resFlags).getLsbD 5 = s.res.flags.typeNotReply ∧
    (s.readReg .resFlags).extractLsb' 6 26 = 0

/-- R23, R24: the bits of a register above its used bits read 0, in every state. -/
def Obligations.BitsAboveTheUsedOnesReadZero : Prop :=
  ∀ (s : State) (r : Reg), (s.readReg r).toNat < 2 ^ r.usedBits

/-- R24, "Written by": an instruction changes a register only if the table lists it for that register. -/
def Obligations.OnlyTheListedOperationsChangeARegister : Prop :=
  ∀ (i : Instr) (s t : State) (r : Reg),
    exec i s = .next t → t.readReg r ≠ s.readReg r → mayWrite i r

/-- R206: the sticky bits are set by a command error and by a bus error, and by nothing else, and cleared only by
reset. -/
def Obligations.StickyBitsAreClearedOnlyByReset : Prop :=
  ∀ s t : State, step s = .next t →
    (t.errSeen = true → s.errSeen = false → t.lastErr ≠ .ok) ∧
    (t.lastErr ≠ .ok → t.lastErr ≠ s.lastErr → t.errSeen = true) ∧
    (t.busErrSeen = true → s.busErrSeen = false → ∃ c, t.responses = s.responses ++ [.busError c]) ∧
    (∀ c, t.responses = s.responses ++ [.busError c] → t.busErrSeen = true) ∧
    ((s.errSeen = true ∧ t.errSeen = false) ∨ (s.busErrSeen = true ∧ t.busErrSeen = false) →
      ∃ rest, s.pending = .reset :: rest)

/-- R38: `RXCAP` is constant, including across reset. -/
def Obligations.RxcapIsConstant : Prop :=
  ∀ s t : State, step s = .next t → t.rxcap = s.rxcap

/-- R28, R40, R41: a byte of the buffers changes only by a host write to `RX` at an address of the access, or by a
`BUILD` in `TX`, and a byte of `RX` once written stays written until reset. -/
def Obligations.BuffersChangeOnlyByHostWritesAndBuild : Prop :=
  ∀ (i : Instr) (s t : State) (a : Nat), exec i s = .next t →
    (Memory.read t.mem a ≠ Memory.read s.mem a →
      (inTxWindow a ∧ runsBuild i) ∨
      (inRxWindow s.rxcap a ∧
        ((∃ addr data, i = .wr8 addr data ∧ a = addr.toNat) ∨
          (∃ addr data, i = .wr16 addr data ∧ addr.toNat ≤ a ∧ a < addr.toNat + 2) ∨
          (∃ addr data, i = .wr32 addr data ∧ addr.toNat ≤ a ∧ a < addr.toNat + 4)))) ∧
    (Memory.read s.mem a ≠ none → Memory.read t.mem a ≠ none)

/-! ## Bus transactions -/

/-- R181: `RD8`, in every case: a bus error, the byte, or the fault on a byte of `RX` not written. -/
def Obligations.ReadByteAnswersTheByte : Prop :=
  ∀ (s : State) (addr : Word),
    (∀ c, accessError 1 addr.toNat s.rxcap = some c →
      exec (.rd8 addr) s = .next { s with
        busErrSeen := true, responses := s.responses ++ [.busError c] }) ∧
    (∀ b, accessError 1 addr.toNat s.rxcap = none → Memory.read s.mem addr.toNat = some b →
      exec (.rd8 addr) s = .next { s with responses := s.responses ++ [.data8 b] }) ∧
    (accessError 1 addr.toNat s.rxcap = none → Memory.read s.mem addr.toNat = none →
      0x10000 ≤ addr.toNat ∧ exec (.rd8 addr) s = .fault (.unwritten (addr.toNat - 0x10000)))

/-- R182: `RD16`, in every case; the first byte is the more significant, and the fault names the first byte not
written. -/
def Obligations.ReadHalfAnswersTwoBytesBigEndian : Prop :=
  ∀ (s : State) (addr : Word),
    (∀ c, accessError 2 addr.toNat s.rxcap = some c →
      exec (.rd16 addr) s = .next { s with
        busErrSeen := true, responses := s.responses ++ [.busError c] }) ∧
    (∀ x y : Byte, accessError 2 addr.toNat s.rxcap = none → holdsAt s.mem addr.toNat [x, y] →
      exec (.rd16 addr) s = .next { s with responses := s.responses ++ [.data16 (x ++ y)] }) ∧
    (∀ k < 2, accessError 2 addr.toNat s.rxcap = none → Memory.read s.mem (addr.toNat + k) = none →
      (∀ j < k, Memory.read s.mem (addr.toNat + j) ≠ none) →
      0x10000 ≤ addr.toNat ∧ exec (.rd16 addr) s = .fault (.unwritten (addr.toNat + k - 0x10000)))

/-- R183: `RD32`, in every case: a bus error, a register, four bytes of a buffer, or the fault. -/
def Obligations.ReadWordAnswersARegisterOrFourBytesBigEndian : Prop :=
  ∀ (s : State) (addr : Word),
    (∀ c, accessError 4 addr.toNat s.rxcap = some c →
      exec (.rd32 addr) s = .next { s with
        busErrSeen := true, responses := s.responses ++ [.busError c] }) ∧
    (∀ r : Reg, addr.toNat = r.offset →
      exec (.rd32 addr) s = .next { s with responses := s.responses ++ [.data32 (s.readReg r)] }) ∧
    (∀ a b c d : Byte, accessError 4 addr.toNat s.rxcap = none → ¬ inRegWindow addr.toNat →
      holdsAt s.mem addr.toNat [a, b, c, d] →
      exec (.rd32 addr) s = .next { s with responses := s.responses ++ [.data32 (a ++ b ++ c ++ d)] }) ∧
    (∀ k < 4, accessError 4 addr.toNat s.rxcap = none → ¬ inRegWindow addr.toNat →
      Memory.read s.mem (addr.toNat + k) = none →
      (∀ j < k, Memory.read s.mem (addr.toNat + j) ≠ none) →
      0x10000 ≤ addr.toNat ∧ exec (.rd32 addr) s = .fault (.unwritten (addr.toNat + k - 0x10000)))

/-- R184: `WR8`, in every case: a bus error, `READONLY` in the transmit window, or the byte stored, every other byte
and every register unchanged. -/
def Obligations.WriteByteStoresTheByte : Prop :=
  ∀ (s : State) (addr data : Word), data.toNat < 2 ^ 8 →
    (∀ c, accessError 1 addr.toNat s.rxcap = some c →
      exec (.wr8 addr data) s = .next { s with
        busErrSeen := true, responses := s.responses ++ [.busError c] }) ∧
    (inTxWindow addr.toNat →
      exec (.wr8 addr data) s = .next { s with
        busErrSeen := true, responses := s.responses ++ [.busError .readOnly] }) ∧
    (inRxWindow s.rxcap addr.toNat → ∃ m,
      exec (.wr8 addr data) s = .next { s with mem := m, responses := s.responses ++ [.done] } ∧
      holdsAt m addr.toNat [data.extractLsb' 0 8] ∧
      ∀ a, a ≠ addr.toNat → Memory.read m a = Memory.read s.mem a)

/-- R185: `WR16`, in every case; the more significant byte goes to the lower address. -/
def Obligations.WriteHalfStoresTwoBytesBigEndian : Prop :=
  ∀ (s : State) (addr data : Word), data.toNat < 2 ^ 16 →
    (∀ c, accessError 2 addr.toNat s.rxcap = some c →
      exec (.wr16 addr data) s = .next { s with
        busErrSeen := true, responses := s.responses ++ [.busError c] }) ∧
    (accessError 2 addr.toNat s.rxcap = none → inTxWindow addr.toNat →
      exec (.wr16 addr data) s = .next { s with
        busErrSeen := true, responses := s.responses ++ [.busError .readOnly] }) ∧
    (accessError 2 addr.toNat s.rxcap = none → inRxWindow s.rxcap addr.toNat → ∃ m,
      exec (.wr16 addr data) s = .next { s with mem := m, responses := s.responses ++ [.done] } ∧
      holdsAt m addr.toNat [data.extractLsb' 8 8, data.extractLsb' 0 8] ∧
      ∀ a, a < addr.toNat ∨ addr.toNat + 2 ≤ a → Memory.read m a = Memory.read s.mem a)

/-- R186 but for `CMD`, which `CommandWriteStoresTheWordAndRunsTheCommand` and `EveryCommandWordIsACommandOrIllegal`
state: `WR32` to a buffer and to a register. -/
def Obligations.WriteWordStoresARegisterOrFourBytesBigEndian : Prop :=
  ∀ (s : State) (addr data : Word),
    (∀ c, accessError 4 addr.toNat s.rxcap = some c →
      exec (.wr32 addr data) s = .next { s with
        busErrSeen := true, responses := s.responses ++ [.busError c] }) ∧
    (accessError 4 addr.toNat s.rxcap = none → readOnlyAt addr.toNat →
      exec (.wr32 addr data) s = .next { s with
        busErrSeen := true, responses := s.responses ++ [.busError .readOnly] }) ∧
    (addr.toNat = 0x08 →
      exec (.wr32 addr data) s = .next { s with timeSec := data, responses := s.responses ++ [.done] }) ∧
    (addr.toNat = 0x0C →
      exec (.wr32 addr data) s = .next { s with timeUsec := data, responses := s.responses ++ [.done] }) ∧
    (accessError 4 addr.toNat s.rxcap = none → inRxWindow s.rxcap addr.toNat → ∃ m,
      exec (.wr32 addr data) s = .next { s with mem := m, responses := s.responses ++ [.done] } ∧
      holdsAt m addr.toNat
        [data.extractLsb' 24 8, data.extractLsb' 16 8, data.extractLsb' 8 8, data.extractLsb' 0 8] ∧
      ∀ a, a < addr.toNat ∨ addr.toNat + 4 ≤ a → Memory.read m a = Memory.read s.mem a)

/-- R57, R63: after a `WR32` to `RX`, the byte and halfword reads see its bytes in big-endian order, and the word read
gives it back. -/
def Obligations.MixedWidthReadsSeeTheWordBigEndian : Prop :=
  ∀ (s : State) (addr data : Word),
    accessError 4 addr.toNat s.rxcap = none → inRxWindow s.rxcap addr.toNat →
    ∃ t, exec (.wr32 addr data) s = .next t ∧
      exec (.rd32 addr) t = .next { t with responses := t.responses ++ [.data32 data] } ∧
      exec (.rd16 addr) t = .next { t with responses := t.responses ++ [.data16 (data.extractLsb' 16 16)] } ∧
      exec (.rd16 (addr + 2)) t =
        .next { t with responses := t.responses ++ [.data16 (data.extractLsb' 0 16)] } ∧
      ∀ k < 4, exec (.rd8 (addr + BitVec.ofNat 32 k)) t =
        .next { t with responses := t.responses ++ [.data8 (data.extractLsb' (24 - 8 * k) 8)] }

/-! ## Session control and errors -/

/-- R170, R171, R172: `NOP`, `SESSION` and `END` complete in every state, with these effects and no other. -/
def Obligations.SessionControlCompletesInEveryState : Prop :=
  ∀ (s : State) (id : Half),
    exec .nop s = .next { s with lastErr := .ok } ∧
    exec (.session id) s = .next { s with
      ident := id, seqLast := 0, tsSecLast := 0, tsUsecLast := 0,
      res := ⟨.none, 0, 0, 0, 0, 0, 0, 0, 0, 0, ⟨false, false, false, false, false, false⟩, 0⟩,
      sact := true, txValid := false, lastErr := .ok } ∧
    exec .endSession s = .next { s with sact := false, txValid := false, lastErr := .ok }

/-- R201, R202: a command that errors makes none of its own effects; one that completes leaves `ERRSEEN`. -/
def Obligations.CommandErrorsMakeNoOtherEffect : Prop :=
  ∀ (c : Instr) (s t : State), c.isCommand = true → exec c s = .next t →
    (t.lastErr ≠ .ok → t = { s with lastErr := t.lastErr, errSeen := true }) ∧
    (t.lastErr = .ok → t.errSeen = s.errSeen)

/-- R246: a `SESSION` or `END` between `BUILD` and `PARSE` discards the outgoing header state, and the `PARSE` fails with
`ESTATE`; after `END` a `BUILD` fails with `ESTATE` too (R172). -/
def Obligations.ParseAfterSessionOrEndIsEstate : Prop :=
  ∀ (s : State) (id seq len : Half), ∃ t u,
    exec (.session id) s = .next t ∧ exec .endSession s = .next u ∧
    t.txValid = false ∧ u.txValid = false ∧
    exec (.parse len) t = .next { t with lastErr := .estate, errSeen := true } ∧
    exec (.parse len) u = .next { u with lastErr := .estate, errSeen := true } ∧
    exec (.build seq) u = .next { u with lastErr := .estate, errSeen := true }

/-! ## Builder -/

/-- R122, R120, R121: `BUILD` in every case. Outside a session it is `ESTATE`, then with a time out of range `EBADTIME`;
otherwise it completes: `TX` holds the 64 bytes of the layout, the checksum spliced in is that of the same bytes
with the field 0, every byte outside `TX` is unchanged, and the outgoing header state is latched. -/
def Obligations.BuildAssemblesTheEchoRequest : Prop :=
  ∀ (s : State) (seq : Half),
    (s.sact = false → exec (.build seq) s = .next { s with lastErr := .estate, errSeen := true }) ∧
    (s.sact = true → 1000000 ≤ s.timeUsec.toNat →
      exec (.build seq) s = .next { s with lastErr := .ebadtime, errSeen := true }) ∧
    (s.sact = true → s.timeUsec.toNat < 1000000 → ∃ m,
      exec (.build seq) s = .next { s with
        mem := m, seqLast := seq, tsSecLast := s.timeSec, tsUsecLast := s.timeUsec,
        txValid := true, lastErr := .ok } ∧
      (requestBytes 0 s.ident seq s.timeSec s.timeUsec).length = 64 ∧
      holdsAt m 0x1000
        (requestBytes (checksum (requestBytes 0 s.ident seq s.timeSec s.timeUsec))
          s.ident seq s.timeSec s.timeUsec) ∧
      ∀ a, a < 0x1000 ∨ 0x103F < a → Memory.read m a = Memory.read s.mem a)

/-- R123: the checksum `BUILD` stores, in closed form. -/
def Obligations.BuildChecksumHasTheClosedForm : Prop :=
  ∀ (s t : State) (seq : Half), s.sact = true → s.timeUsec.toNat < 1000000 →
    exec (.build seq) s = .next t →
    (txByte t.mem 2 ++ txByte t.mem 3).toNat =
      0xFFFF - fold (0x2F300 + s.ident.toNat + seq.toNat +
        (s.timeSec.extractLsb' 16 16).toNat + (s.timeSec.extractLsb' 0 16).toNat +
        (s.timeUsec.extractLsb' 16 16).toNat + (s.timeUsec.extractLsb' 0 16).toNat)

/-- R124: a built packet verifies, and a `CKTX` that follows says so. -/
def Obligations.BuiltPacketVerifies : Prop :=
  ∀ (s : State) (seq : Half), s.sact = true → s.timeUsec.toNat < 1000000 →
    ∃ t, exec (.build seq) s = .next t ∧
      onesSum (txRange t.mem 0 64) = 0xFFFF ∧ checksum (txRange t.mem 0 64) = 0x0000 ∧
      exec .cktx t = .next { t with ckSum := 0xFFFF, ckResult := 0x0000, lastErr := .ok }

/-- R125, R126: two builds under one identifier write the same `TX` but for bytes 2, 3 and 8 to 15, and 6 and 7 where
the sequence numbers differ. -/
def Obligations.BuildsOfOneSessionDifferOnlyInSequenceTimeAndChecksum : Prop :=
  ∀ (s s' t t' : State) (seq seq' : Half),
    s.sact = true → s'.sact = true → s.timeUsec.toNat < 1000000 → s'.timeUsec.toNat < 1000000 →
    s'.ident = s.ident → exec (.build seq) s = .next t → exec (.build seq') s' = .next t' →
    (∀ i < 64, txByte t.mem i ≠ txByte t'.mem i → i = 2 ∨ i = 3 ∨ i = 6 ∨ i = 7 ∨ (8 ≤ i ∧ i ≤ 15)) ∧
    (seq = seq' → txByte t.mem 6 = txByte t'.mem 6 ∧ txByte t.mem 7 = txByte t'.mem 7) ∧
    (seq ≠ seq' → txByte t.mem 6 ≠ txByte t'.mem 6 ∨ txByte t.mem 7 ≠ txByte t'.mem 7) ∧
    txByte t.mem 4 ++ txByte t.mem 5 = s.ident

/-! ## Checksum engine -/

/-- R105: `CKSUM` in every case. -/
def Obligations.CksumChecksumsTheReceivePrefix : Prop :=
  ∀ (s : State) (len : Half),
    (s.rxcap.toNat < len.toNat →
      exec (.cksum len) s = .next { s with lastErr := .ebadlen, errSeen := true }) ∧
    (∀ bs : List Byte, len.toNat ≤ s.rxcap.toNat → bs.length = len.toNat → holdsAt s.mem 0x10000 bs →
      exec (.cksum len) s = .next { s with ckSum := onesSum bs, ckResult := checksum bs, lastErr := .ok }) ∧
    (∀ i < len.toNat, len.toNat ≤ s.rxcap.toNat → Memory.read s.mem (0x10000 + i) = none →
      (∀ j < i, Memory.read s.mem (0x10000 + j) ≠ none) →
      exec (.cksum len) s = .fault (.unwritten i))

/-- R106: `CKTX` completes in every state. -/
def Obligations.CktxChecksumsTheTransmitBuffer : Prop :=
  ∀ s : State, ∃ bs : List Byte, bs.length = 64 ∧ holdsAt s.mem 0x1000 bs ∧
    exec .cktx s = .next { s with ckSum := onesSum bs, ckResult := checksum bs, lastErr := .ok }

/-- R101: for every sequence the block checksums the 32-bit accumulator holds the exact sum of the words. -/
def Obligations.AccumulatorHoldsTheExactSum : Prop :=
  ∀ s : List Byte, s.length ≤ 65535 →
    (accumulate s).toNat = exactSum s ∧ exactSum s ≤ 0x7FFF8000 ∧ 0x7FFF8000 < 2 ^ 31

/-- R102: each fold keeps `acc mod 0xFFFF` and decreases `acc` while it exceeds 0xFFFF; below 2^31 at most two happen, the
first to at most 0x17FFE. -/
def Obligations.FoldKeepsTheResidueAndEndsInTwoPasses : Prop :=
  (∀ acc : Nat, 0xFFFF < acc →
    foldLoop 1 acc % 0xFFFF = acc % 0xFFFF ∧ foldLoop 1 acc < acc) ∧
  (∀ acc : Nat, acc < 2 ^ 31 →
    foldLoop 1 acc ≤ 0x17FFE ∧ foldLoop 2 acc ≤ 0xFFFF ∧ fold acc = foldLoop 2 acc)

/-- R107: the checksum written into a zeroed field at an even index verifies. -/
def Obligations.SplicedChecksumVerifies : Prop :=
  ∀ (s : List Byte) (p : Nat), s.length ≤ 65535 → p % 2 = 0 → p + 1 < s.length →
    s[p]? = some 0 → s[p + 1]? = some 0 →
    onesSum ((s.set p ((checksum s).extractLsb' 8 8)).set (p + 1) ((checksum s).extractLsb' 0 8)) = 0xFFFF ∧
    checksum ((s.set p ((checksum s).extractLsb' 8 8)).set (p + 1) ((checksum s).extractLsb' 0 8)) = 0x0000

/-- R108: the checksum of any number of zero bytes is 0xFFFF. -/
def Obligations.ChecksumOfZeroBytes : Prop :=
  ∀ n : Nat, checksum (List.replicate n 0) = 0xFFFF

/-- R109: permuting words changes nothing; swapping the two bytes of one word changes the result exactly when they
differ. -/
def Obligations.WordOrderDoesNotMatterByteOrderDoes : Prop :=
  (∀ s s' : List Byte, (wordsOf s).Perm (wordsOf s') → onesSum s = onesSum s' ∧ checksum s = checksum s') ∧
  (∀ (pre post : List Byte) (a b : Byte), pre.length % 2 = 0 → (pre ++ [a, b] ++ post).length ≤ 65535 →
    (checksum (pre ++ [a, b] ++ post) ≠ checksum (pre ++ [b, a] ++ post) ↔ a ≠ b))

/-- R111: the folded sum in closed form, and when it and the checksum take their extreme values. -/
def Obligations.OnesSumIsTheResidueOfTheExactSum : Prop :=
  ∀ s : List Byte, s.length ≤ 65535 →
    (onesSum s = 0 ↔ ∀ b ∈ s, b = 0) ∧
    (¬ (∀ b ∈ s, b = 0) → (onesSum s).toNat = (exactSum s - 1) % 0xFFFF + 1) ∧
    (checksum s = 0xFFFF ↔ ∀ b ∈ s, b = 0) ∧
    (checksum s = 0x0000 ↔ onesSum s = 0xFFFF)

/-- R112: the sum of a concatenation folds the two sums when the first length is even, and not in general when it
is odd. -/
def Obligations.OnesSumOfAConcatenation : Prop :=
  (∀ a b : List Byte, a.length % 2 = 0 → (a ++ b).length ≤ 65535 →
    (onesSum (a ++ b)).toNat = fold ((onesSum a).toNat + (onesSum b).toNat)) ∧
  (∃ a b : List Byte, a.length % 2 = 1 ∧ (a ++ b).length ≤ 65535 ∧
    (onesSum (a ++ b)).toNat ≠ fold ((onesSum a).toNat + (onesSum b).toNat))

/-- R113: one zero byte after an odd-length sequence, or any number after an even-length one, changes nothing. -/
def Obligations.TrailingZeroBytesChangeNothing : Prop :=
  (∀ s : List Byte, s.length % 2 = 1 → onesSum (s ++ [0]) = onesSum s ∧ checksum (s ++ [0]) = checksum s) ∧
  (∀ (s : List Byte) (n : Nat), s.length % 2 = 0 →
    onesSum (s ++ List.replicate n 0) = onesSum s ∧ checksum (s ++ List.replicate n 0) = checksum s)

/-! ## Parser -/

/-- R149, R203: the errors of `PARSE`, in their order of priority; every `RES_` register keeps its value. -/
def Obligations.ParseErrorsComeInPriorityOrder : Prop :=
  ∀ (s : State) (len : Half),
    (s.txValid = false → exec (.parse len) s = .next { s with lastErr := .estate, errSeen := true }) ∧
    (s.txValid = true → s.rxcap.toNat < len.toNat →
      exec (.parse len) s = .next { s with lastErr := .ebadlen, errSeen := true }) ∧
    (s.txValid = true → len.toNat ≤ s.rxcap.toNat → 1000000 ≤ s.timeUsec.toNat →
      exec (.parse len) s = .next { s with lastErr := .ebadtime, errSeen := true })

/-- R141, R151: a reply shorter than 28 bytes gives the `SHORT` result, with every other `RES_` register 0, whatever `RX`
holds, written or not. -/
def Obligations.ShortReplyGivesTheShortResult : Prop :=
  ∀ (s : State) (len : Half), s.txValid = true → len.toNat ≤ s.rxcap.toNat → s.timeUsec.toNat < 1000000 →
    len.toNat < 28 →
    exec (.parse len) s = .next { s with
      res := ⟨.short, 0, s.seqLast, 0, 0, 0, 0, 0, 0, 0, ⟨false, false, false, false, false, false⟩, 0⟩,
      lastErr := .ok }

/-- R142, R144 to R148: a reply of at least 28 written bytes gives the `OK` result. `first` is `RX[0]`, `ttl` is `RX[8]` and
`icmp` is `RX[20..len)`, so that `icmp[k]` is `RX[20+k]`; a negative difference of the timestamps reads as 0. -/
def Obligations.ReplyGivesTheOkResult : Prop :=
  ∀ (s : State) (len : Half) (first ttl : Byte) (icmp : List Byte),
    s.txValid = true → 28 ≤ len.toNat → len.toNat ≤ s.rxcap.toNat → s.timeUsec.toNat < 1000000 →
    Memory.read s.mem 0x10000 = some first → Memory.read s.mem 0x10008 = some ttl →
    icmp.length = len.toNat - 20 → holdsAt s.mem 0x10014 icmp →
    exec (.parse len) s = .next { s with
      res :=
        { kind := .ok
          bytes := BitVec.ofNat 16 (len.toNat - 20)
          seq := s.seqLast
          ttl := ttl
          rttLo := BitVec.ofNat 32 (microsBetween s.tsSecLast s.tsUsecLast s.timeSec s.timeUsec).toNat
          rttHi := BitVec.ofNat 32 ((microsBetween s.tsSecLast s.tsUsecLast s.timeSec s.timeUsec).toNat / 2 ^ 32)
          rtype := icmp.getD 0 0
          rcode := icmp.getD 1 0
          rid := icmp.getD 4 0 ++ icmp.getD 5 0
          rseq := icmp.getD 6 0 ++ icmp.getD 7 0
          flags :=
            { seqMismatch := decide (icmp.getD 6 0 ++ icmp.getD 7 0 ≠ s.seqLast)
              idMismatch := decide (icmp.getD 4 0 ++ icmp.getD 5 0 ≠ s.ident)
              ckBad := decide (checksum icmp ≠ 0x0000)
              ihlNot5 := decide (first.extractLsb' 0 4 ≠ 5)
              rttNeg := decide (microsBetween s.tsSecLast s.tsUsecLast s.timeSec s.timeUsec < 0)
              typeNotReply := decide (icmp.getD 0 0 ≠ 0) }
          ihl := first.extractLsb' 0 4 }
      lastErr := .ok }

/-- R149, R207: with its checks passed, a `PARSE` of at least 28 bytes faults at the first byte it reads that is not
written: `RX[0]`, `RX[8]`, then `RX[20..len)` (the order is the model's reading, log entry 8). -/
def Obligations.ParseFaultsAtTheFirstUnwrittenByteItReads : Prop :=
  ∀ (s : State) (len : Half),
    s.txValid = true → 28 ≤ len.toNat → len.toNat ≤ s.rxcap.toNat → s.timeUsec.toNat < 1000000 →
    (Memory.read s.mem 0x10000 = none → exec (.parse len) s = .fault (.unwritten 0)) ∧
    (Memory.read s.mem 0x10000 ≠ none → Memory.read s.mem 0x10008 = none →
      exec (.parse len) s = .fault (.unwritten 8)) ∧
    (∀ i, 20 ≤ i → i < len.toNat → Memory.read s.mem 0x10000 ≠ none → Memory.read s.mem 0x10008 ≠ none →
      Memory.read s.mem (0x10000 + i) = none →
      (∀ j, 20 ≤ j → j < i → Memory.read s.mem (0x10000 + j) ≠ none) →
      exec (.parse len) s = .fault (.unwritten i))

/-- R140, R245: `PARSE` learns nothing of any other byte: two states that agree on everything but memory, and on `RX[0]`,
`RX[8]` and `RX[20..len)`, get the same result. -/
def Obligations.ParseReadsNoOtherByte : Prop :=
  ∀ (s : State) (m : Memory) (len : Half),
    Memory.read m 0x10000 = Memory.read s.mem 0x10000 →
    Memory.read m 0x10008 = Memory.read s.mem 0x10008 →
    (∀ i, 20 ≤ i → i < len.toNat → Memory.read m (0x10000 + i) = Memory.read s.mem (0x10000 + i)) →
    (∀ t, exec (.parse len) s = .next t → exec (.parse len) { s with mem := m } = .next { t with mem := m }) ∧
    (∀ f, exec (.parse len) s = .fault f → exec (.parse len) { s with mem := m } = .fault f)

/-- R147: the round-trip time fits 52 bits, is flagged negative exactly when the receive time is earlier, and never
decreases when the receive time grows. -/
def Obligations.RoundTripTimeIsBoundedSignedAndMonotone : Prop :=
  ∀ ss su rs ru : Word, su.toNat < 1000000 → ru.toNat < 1000000 →
    (rttMicros ss su rs ru).1 < 2 ^ 52 ∧
    ((rttMicros ss su rs ru).2 = true ↔ rs.toNat < ss.toNat ∨ (rs.toNat = ss.toNat ∧ ru.toNat < su.toNat)) ∧
    ((rttMicros ss su rs ru).2 = true → (rttMicros ss su rs ru).1 = 0) ∧
    (∀ rs' ru' : Word, ru'.toNat < 1000000 →
      rs.toNat < rs'.toNat ∨ (rs.toNat = rs'.toNat ∧ ru.toNat ≤ ru'.toNat) →
      (rttMicros ss su rs ru).1 ≤ (rttMicros ss su rs' ru').1)

/-- R149, corner cases: a second `PARSE` of the same reply is legal and gives the same state. -/
def Obligations.ParsingTheSameReplyAgainGivesTheSameState : Prop :=
  ∀ (s t : State) (len : Half), exec (.parse len) s = .next t → exec (.parse len) t = .next t

/-- R241, R242: a `PARSE` right after a `BUILD` reports that packet's sequence number and, the time operand unchanged, a
round-trip time of 0. -/
def Obligations.ParseReportsTheLastPacketBuilt : Prop :=
  ∀ (s t u : State) (seq len : Half), s.sact = true → s.timeUsec.toNat < 1000000 →
    exec (.build seq) s = .next t → len.toNat ≤ t.rxcap.toNat → exec (.parse len) t = .next u →
    u.res.seq = seq ∧ u.res.rttLo = 0 ∧ u.res.rttHi = 0 ∧ u.res.flags.rttNeg = false
end

