-- ==== Sys2Proof/Laws/Decode.lean ====
section
/-! SUPPORT. The fields of a command word, and which instructions each decoder can answer. -/

namespace Sys2Proof

@[simp] theorem opField_commandWord (op : BitVec 8) (imm : Half) : opField (commandWord op imm) = op := by
  apply BitVec.eq_of_getLsbD_eq
  intro i hi
  simp only [opField, commandWord, BitVec.getLsbD_extractLsb', BitVec.getLsbD_append]
  simp [hi, show ¬ 24 + i < 16 by omega, show ¬ 24 + i - 16 < 8 by omega, show 24 + i - 16 - 8 = i by omega]

@[simp] theorem rsvField_commandWord (op : BitVec 8) (imm : Half) : rsvField (commandWord op imm) = 0 := by
  apply BitVec.eq_of_getLsbD_eq
  intro i hi
  simp only [rsvField, commandWord, BitVec.getLsbD_extractLsb', BitVec.getLsbD_append]
  simp [hi, show ¬ 16 + i < 16 by omega]

@[simp] theorem immField_commandWord (op : BitVec 8) (imm : Half) : immField (commandWord op imm) = imm := by
  apply BitVec.eq_of_getLsbD_eq
  intro i hi
  simp only [immField, commandWord, BitVec.getLsbD_extractLsb', BitVec.getLsbD_append]
  simp [hi]

/-- A word with `RSV = 0` is the command word of its fields. -/
theorem commandWord_fields {w : Word} (h : rsvField w = 0) : commandWord (opField w) (immField w) = w := by
  apply BitVec.eq_of_getLsbD_eq
  intro i hi
  simp only [commandWord, opField, immField, BitVec.getLsbD_append, BitVec.getLsbD_extractLsb']
  by_cases h1 : i < 16
  · simp [h1]
  · by_cases h2 : i - 16 < 8
    · have := congrArg (fun v => BitVec.getLsbD v (i - 16)) h
      simp only [rsvField, BitVec.getLsbD_extractLsb', h2, show 16 + (i - 16) = i by omega] at this
      simp_all
    · simp [h1, h2, show i - 16 - 8 < 8 by omega, show 24 + (i - 16 - 8) = i by omega]

theorem withoutOperand_ok {imm : Half} {i j : Instr} : withoutOperand imm j = .ok i ↔ imm = 0 ∧ i = j := by
  unfold withoutOperand
  split
  · next h => simp [h, eq_comm]
  · next h => exact ⟨fun e => (nomatch e), fun e => absurd e.1 h⟩

theorem withData_ok {n : Nat} {d : Word} {i j : Instr} : withData n d j = .ok i ↔ dataFits n d = true ∧ i = j := by
  unfold withData
  split
  · next h => simp [h, eq_comm]
  · next h => simp [h]

/-- Everything the command decoder can answer: a word with `RSV = 0` and one of seven opcodes, and the command of
that opcode. -/
theorem decodeCommand_ok {w : Word} {i : Instr} (h : decodeCommand w = .ok i) :
    rsvField w = 0 ∧
      ((opField w = 0 ∧ immField w = 0 ∧ i = .nop) ∨ (opField w = 1 ∧ i = .session (immField w)) ∨
        (opField w = 2 ∧ i = .build (immField w)) ∨ (opField w = 3 ∧ i = .parse (immField w)) ∨
        (opField w = 4 ∧ i = .cksum (immField w)) ∨ (opField w = 5 ∧ immField w = 0 ∧ i = .cktx) ∨
        (opField w = 6 ∧ immField w = 0 ∧ i = .endSession)) := by
  unfold decodeCommand at h
  split at h
  · cases h
  · next hr =>
    refine ⟨not_not.1 hr, ?_⟩
    have key : ∀ n : Nat, (opField w).toNat = n → opField w = BitVec.ofNat 8 n := by
      intro n hn
      rw [← hn, BitVec.ofNat_toNat, BitVec.setWidth_eq]
    split at h
    · next hop => exact .inl ⟨key _ hop, withoutOperand_ok.1 h⟩
    · next hop => cases h; exact .inr (.inl ⟨key _ hop, rfl⟩)
    · next hop => cases h; exact .inr (.inr (.inl ⟨key _ hop, rfl⟩))
    · next hop => cases h; exact .inr (.inr (.inr (.inl ⟨key _ hop, rfl⟩)))
    · next hop => cases h; exact .inr (.inr (.inr (.inr (.inl ⟨key _ hop, rfl⟩))))
    · next hop => exact .inr (.inr (.inr (.inr (.inr (.inl ⟨key _ hop, withoutOperand_ok.1 h⟩)))))
    · next hop => exact .inr (.inr (.inr (.inr (.inr (.inr ⟨key _ hop, withoutOperand_ok.1 h⟩)))))
    · cases h

/-- A command word never decodes to a transaction. -/
theorem decodeCommand_isCommand {w : Word} {i : Instr} (h : decodeCommand w = .ok i) : i.isCommand = true := by
  obtain ⟨-, h⟩ := decodeCommand_ok h
  rcases h with ⟨-, -, rfl⟩ | ⟨-, rfl⟩ | ⟨-, rfl⟩ | ⟨-, rfl⟩ | ⟨-, rfl⟩ | ⟨-, -, rfl⟩ | ⟨-, -, rfl⟩ <;> rfl

end Sys2Proof
end

