-- ==== Sys2Proof/Laws/Memory.lean ====
section
/-! SUPPORT. The laws of memory: a read after a write, the canonical form, and what reading a range of a buffer can
do. -/

namespace Sys2Proof.Machine

namespace Memory

theorem lookup_insert_same (m : Memory) (a : Nat) (b : Byte) : lookup (insert m a b) a = some b := by
  induction m with
  | nil => simp [insert, lookup]
  | cons c m ih =>
    obtain ⟨a', b'⟩ := c
    simp only [insert]
    split
    · simp [lookup]
    · split
      · simp [lookup]
      · simp [lookup, *]

theorem lookup_insert_other {a a' : Nat} (h : a' ≠ a) (m : Memory) (b : Byte) :
    lookup (insert m a b) a' = lookup m a' := by
  induction m with
  | nil => simp [insert, lookup, h]
  | cons c m ih =>
    obtain ⟨x, y⟩ := c
    simp only [insert]
    split
    · simp [lookup, h]
    · split
      · next hx => subst hx; simp [lookup, h]
      · simp only [lookup, ih]

theorem lookup_erase_same (m : Memory) (a : Nat) : lookup (erase m a) a = none := by
  induction m with
  | nil => rfl
  | cons c m ih =>
    obtain ⟨x, y⟩ := c
    simp only [erase]
    split
    · exact ih
    · simp [lookup, *]

theorem lookup_erase_other {a a' : Nat} (h : a' ≠ a) (m : Memory) : lookup (erase m a) a' = lookup m a' := by
  induction m with
  | nil => rfl
  | cons c m ih =>
    obtain ⟨x, y⟩ := c
    simp only [erase]
    split
    · next hx => subst hx; simp [lookup, h, ih]
    · simp only [lookup, ih]

/-- A read after a write to the same address gives the byte written. -/
@[simp] theorem read_write_same (m : Memory) (a : Nat) (b : Byte) : read (write m a b) a = some b := by
  unfold read write
  split
  · next h => rw [lookup_erase_same, h]; rfl
  · rw [lookup_insert_same]; rfl

/-- A write leaves every other address alone. -/
theorem read_write_other {a a' : Nat} (h : a' ≠ a) (m : Memory) (b : Byte) :
    read (write m a b) a' = read m a' := by
  unfold read write
  split
  · rw [lookup_erase_other h]
  · rw [lookup_insert_other h]

/-- A byte sequence written leaves every address outside it alone. -/
theorem read_writeBytes_outside (bs : List Byte) (m : Memory) (a x : Nat) (h : x < a ∨ a + bs.length ≤ x) :
    read (writeBytes m a bs) x = read m x := by
  induction bs generalizing m a with
  | nil => rfl
  | cons b bs ih =>
    simp only [List.length_cons] at h
    rw [writeBytes, ih _ _ (by omega), read_write_other (by omega)]

/-- A byte sequence written is read back. -/
theorem read_writeBytes_inside (bs : List Byte) (m : Memory) (a k : Nat) (h : k < bs.length) :
    read (writeBytes m a bs) (a + k) = bs[k]? := by
  induction bs generalizing m a k with
  | nil => simp at h
  | cons b bs ih =>
    rw [writeBytes]
    cases k with
    | zero => rw [read_writeBytes_outside _ _ _ _ (by omega)]; simp
    | succ k =>
      rw [show a + (k + 1) = a + 1 + k by omega, ih _ _ _ (by simpa using h)]
      simp

theorem mem_insert {m : Memory} {a : Nat} {b : Byte} {c : Host.Cell} (h : c ∈ insert m a b) :
    c = (a, b) ∨ c ∈ m := by
  induction m with
  | nil => simpa [insert] using h
  | cons d m ih =>
    obtain ⟨x, y⟩ := d
    simp only [insert] at h
    split at h
    · simpa using h
    · split at h
      · rcases List.mem_cons.1 h with h | h
        · exact .inl h
        · exact .inr (List.mem_cons_of_mem _ h)
      · rcases List.mem_cons.1 h with h | h
        · exact .inr (h ▸ List.mem_cons_self)
        · exact (ih h).imp id (List.mem_cons_of_mem _)

theorem mem_erase {m : Memory} {a : Nat} {c : Host.Cell} (h : c ∈ erase m a) : c ∈ m := by
  induction m with
  | nil => exact h
  | cons d m ih =>
    obtain ⟨x, y⟩ := d
    simp only [erase] at h
    split at h
    · exact List.mem_cons_of_mem _ (ih h)
    · rcases List.mem_cons.1 h with h | h
      · exact h ▸ List.mem_cons_self
      · exact List.mem_cons_of_mem _ (ih h)

/-- Every entry after a write is the one written or was there before. -/
theorem mem_write {m : Memory} {a : Nat} {b : Byte} {c : Host.Cell} (h : c ∈ write m a b) :
    c = (a, b) ∨ c ∈ m := by
  unfold write at h
  split at h
  · exact .inr (mem_erase h)
  · exact mem_insert h

/-- Every entry after a sequence is written lies in it or was there before. -/
theorem mem_writeBytes {bs : List Byte} {m : Memory} {a : Nat} {c : Host.Cell} (h : c ∈ writeBytes m a bs) :
    (a ≤ c.1 ∧ c.1 < a + bs.length) ∨ c ∈ m := by
  induction bs generalizing m a with
  | nil => exact .inr h
  | cons b bs ih =>
    rw [writeBytes] at h
    simp only [List.length_cons]
    rcases ih h with h | h
    · exact .inl (by omega)
    · rcases mem_write h with rfl | h
      · exact .inl (by simp)
      · exact .inr h

theorem sorted_insert {m : Memory} (h : m.Pairwise (fun c d => c.1 < d.1)) (a : Nat) (b : Byte) :
    (insert m a b).Pairwise (fun c d => c.1 < d.1) := by
  induction m with
  | nil => simp [insert]
  | cons d m ih =>
    obtain ⟨x, y⟩ := d
    rw [List.pairwise_cons] at h
    simp only [insert]
    split
    · next hx =>
      refine List.pairwise_cons.2 ⟨?_, List.pairwise_cons.2 h⟩
      intro c hc
      rcases List.mem_cons.1 hc with rfl | hc
      · exact hx
      · exact lt_trans hx (h.1 c hc)
    · split
      · next hx => subst hx; exact List.pairwise_cons.2 h
      · refine List.pairwise_cons.2 ⟨?_, ih h.2⟩
        intro c hc
        rcases mem_insert hc with rfl | hc
        · simp only; omega
        · exact h.1 c hc

theorem sorted_erase {m : Memory} (h : m.Pairwise (fun c d => c.1 < d.1)) (a : Nat) :
    (erase m a).Pairwise (fun c d => c.1 < d.1) := by
  induction m with
  | nil => exact h
  | cons d m ih =>
    obtain ⟨x, y⟩ := d
    rw [List.pairwise_cons] at h
    simp only [erase]
    split
    · exact ih h.2
    · exact List.pairwise_cons.2 ⟨fun c hc => h.1 c (mem_erase hc), ih h.2⟩

/-- A write keeps the canonical form. -/
theorem wf_write {m : Memory} (h : wf m) (a : Nat) (b : Byte) : wf (write m a b) := by
  unfold write
  split
  · exact ⟨sorted_erase h.1 a, fun c hc => h.2 c (mem_erase hc)⟩
  · next hb =>
    refine ⟨sorted_insert h.1 a b, fun c hc => ?_⟩
    rcases mem_insert hc with rfl | hc
    · exact hb
    · exact h.2 c hc

/-- Writing a byte sequence keeps the canonical form. -/
theorem wf_writeBytes (bs : List Byte) {m : Memory} (h : wf m) (a : Nat) : wf (writeBytes m a bs) := by
  induction bs generalizing m a with
  | nil => exact h
  | cons b bs ih => exact ih (wf_write h a b) (a + 1)

theorem wf_nil : wf [] := by simp [wf]

theorem lookup_eq_none_of_lt {m : Memory} {a : Nat} (h : ∀ c ∈ m, a < c.1) : lookup m a = none := by
  induction m with
  | nil => rfl
  | cons d m ih =>
    obtain ⟨x, y⟩ := d
    have hx := h _ List.mem_cons_self
    simp only at hx
    simp [lookup, show a ≠ x by omega, ih fun c hc => h c (List.mem_cons_of_mem _ hc)]

/-- In canonical form a listed byte is read, and differs from what its address reads as unlisted. -/
theorem lookup_of_mem {m : Memory} (h : wf m) {c : Host.Cell} (hc : c ∈ m) : lookup m c.1 = some c.2 := by
  induction m with
  | nil => simp at hc
  | cons d m ih =>
    obtain ⟨x, y⟩ := d
    have h1 := List.pairwise_cons.1 h.1
    rcases List.mem_cons.1 hc with rfl | hc
    · simp [lookup]
    · have hx := h1.1 c hc
      simp only at hx
      simp only [lookup, show c.1 ≠ x by omega, if_false]
      exact ih ⟨h1.2, fun e he => h.2 e (List.mem_cons_of_mem _ he)⟩ hc

/-- Outside the transmit window an unlisted address has no value. -/
theorem unlisted_rx (i : Nat) : unlisted (Config.rxBase + i) = none := by
  simp [unlisted, Config.txBase, Config.rxBase, Config.txLen]; omega

/-- Every byte of the transmit window reads as something. -/
theorem read_tx_isSome (m : Memory) {i : Nat} (h : i < Config.txLen) : (read m (Config.txBase + i)).isSome := by
  have : unlisted (Config.txBase + i) = some 0 := by simp [unlisted, Config.txBase] at h ⊢; omega
  simp [read, this]

end Memory

theorem txRange_length (m : Memory) (i n : Nat) : (txRange m i n).length = n := by simp [txRange]

theorem txRange_getElem? (m : Memory) (i n k : Nat) (h : k < n) : (txRange m i n)[k]? = some (txByte m (i + k)) := by
  simp [txRange, h]

/-- Two memories that agree on the transmit window hold the same `TX`. -/
theorem txRange_congr {m m' : Memory} {i n : Nat}
    (h : ∀ k < n, Memory.read m (Config.txBase + (i + k)) = Memory.read m' (Config.txBase + (i + k))) :
    txRange m i n = txRange m' i n := by
  refine List.map_congr_left fun k hk => ?_
  rw [txByte, txByte, h k (List.mem_range.1 hk)]

/-- `TX` holds the bytes just written to all of it. -/
theorem txRange_writeBytes (m : Memory) (bs : List Byte) :
    txRange (Memory.writeBytes m Config.txBase bs) 0 bs.length = bs := by
  refine List.ext_getElem? fun k => ?_
  by_cases hk : k < bs.length
  · rw [txRange_getElem? _ _ _ _ hk, txByte, Nat.zero_add, Memory.read_writeBytes_inside _ _ _ _ hk]
    simp [List.getElem?_eq_getElem hk]
  · rw [List.getElem?_eq_none (by rw [txRange_length]; omega), List.getElem?_eq_none (by omega)]

/-- A write to `RX` leaves `TX` alone. -/
theorem txRange_writeBytes_rx (m : Memory) {a : Nat} (h : Config.rxBase ≤ a) (bs : List Byte) :
    txRange (Memory.writeBytes m a bs) 0 Config.txLen = txRange m 0 Config.txLen :=
  txRange_congr fun k hk => Memory.read_writeBytes_outside _ _ _ _
    (.inl (by simp only [Config.txLen, Config.txBase, Config.rxBase] at hk h ⊢; omega))

/-- What reading one byte of `RX` can do. -/
theorem rxByte_ok {m : Memory} {i : Nat} {b : Byte} :
    rxByte m i = .ok b ↔ Memory.read m (Config.rxBase + i) = some b := by
  unfold rxByte
  split <;> simp_all

theorem rxByte_error {m : Memory} {i : Nat} {f : Fault} :
    rxByte m i = .error f ↔ f = .unwritten i ∧ Memory.read m (Config.rxBase + i) = none := by
  unfold rxByte
  split
  · next b hb => simp [hb]
  · next hb => simp [hb, eq_comm]

/-- Reading a range of `RX` answers bytes exactly when all of them are written, and answers those. -/
theorem rxRange_ok {m : Memory} {i n : Nat} {bs : List Byte} :
    rxRange m i n = .ok bs ↔
      bs.length = n ∧ ∀ k < n, Memory.read m (Config.rxBase + (i + k)) = bs[k]? := by
  induction n generalizing i bs with
  | zero => cases bs <;> simp [rxRange]
  | succ n ih =>
    rw [rxRange]
    constructor
    · intro h
      split at h
      · cases h
      · next b hb =>
        split at h
        · cases h
        · next rest hr =>
          cases h
          obtain ⟨hl, hk⟩ := ih.1 hr
          refine ⟨by simp [hl], fun k hk' => ?_⟩
          cases k with
          | zero => simpa using rxByte_ok.1 hb
          | succ k =>
            rw [show i + (k + 1) = i + 1 + k by omega, hk k (by omega)]
            simp
    · rintro ⟨hl, hk⟩
      cases bs with
      | nil => simp at hl
      | cons b rest =>
        have h0 := hk 0 (by omega)
        have hb : rxByte m i = .ok b := rxByte_ok.2 (by simpa using h0)
        have hr : rxRange m (i + 1) n = .ok rest := by
          refine ih.2 ⟨by simpa using hl, fun k hk' => ?_⟩
          have := hk (k + 1) (by omega)
          rw [show i + 1 + k = i + (k + 1) by omega, this]
          simp
        simp [hb, hr]

/-- Reading a range of `RX` faults at its first byte not written. -/
theorem rxRange_error {m : Memory} {i n : Nat} {f : Fault} :
    rxRange m i n = .error f ↔
      ∃ k < n, f = .unwritten (i + k) ∧ Memory.read m (Config.rxBase + (i + k)) = none ∧
        ∀ j < k, Memory.read m (Config.rxBase + (i + j)) ≠ none := by
  induction n generalizing i with
  | zero => simp [rxRange]
  | succ n ih =>
    rw [rxRange]
    cases hb : rxByte m i with
    | error g =>
      obtain ⟨rfl, hn⟩ := rxByte_error.1 hb
      simp only [Except.error.injEq]
      constructor
      · rintro rfl
        exact ⟨0, by omega, rfl, by simpa using hn, by omega⟩
      · rintro ⟨k, -, rfl, -, hj⟩
        cases k with
        | zero => rfl
        | succ k => exact absurd hn (by simpa using hj 0 (by omega))
    | ok b =>
      have hs := rxByte_ok.1 hb
      have step : (∃ k < n + 1, f = .unwritten (i + k) ∧ Memory.read m (Config.rxBase + (i + k)) = none ∧
          ∀ j < k, Memory.read m (Config.rxBase + (i + j)) ≠ none) ↔ rxRange m (i + 1) n = .error f := by
        rw [ih]
        constructor
        · rintro ⟨k, hk, rfl, hn, hj⟩
          cases k with
          | zero => simp [hs] at hn
          | succ k =>
            refine ⟨k, by omega, by congr 1; omega, by rw [← hn]; congr 2; omega, fun j hj' => ?_⟩
            have := hj (j + 1) (by omega)
            rwa [show i + (j + 1) = i + 1 + j by omega] at this
        · rintro ⟨k, hk, rfl, hn, hj⟩
          refine ⟨k + 1, by omega, by congr 1; omega, by rw [← hn]; congr 2; omega, fun j hj' => ?_⟩
          cases j with
          | zero => simp [hs]
          | succ j =>
            have := hj j (by omega)
            rwa [show i + (j + 1) = i + 1 + j by omega]
      rw [step]
      cases rxRange m (i + 1) n <;> simp

end Sys2Proof.Machine
end

