-- ==== Sys2Proof/Laws/OnesSum.lean ====
section
/-! SUPPORT. The words of a byte sequence, the bound of their sum and the closed form of the fold (R100 to R102). -/

namespace Sys2Proof.Machine

theorem be16_toNat (x y : Byte) : (be16 x y).toNat = x.toNat * 256 + y.toNat := by
  rw [be16, BitVec.toNat_append, Nat.shiftLeft_eq, ← Nat.shiftLeft_eq, ← Nat.shiftLeft_add_eq_or_of_lt y.isLt,
    Nat.shiftLeft_eq]

/-- R12: a 16-bit value is the big-endian value of its two bytes. -/
theorem be16_bytesBe16 (v : Half) : be16 (v.extractLsb' 8 8) (v.extractLsb' 0 8) = v := by
  apply BitVec.eq_of_toNat_eq
  rw [be16_toNat]
  simp only [BitVec.extractLsb'_toNat, Nat.shiftRight_eq_div_pow]
  omega

@[simp] theorem wordSum_nil : wordSum [] = 0 := rfl
@[simp] theorem wordSum_single (b : Byte) : wordSum [b] = (be16 b 0).toNat := rfl
@[simp] theorem wordSum_cons_cons (x y : Byte) (s : List Byte) :
    wordSum (x :: y :: s) = (be16 x y).toNat + wordSum s := rfl

/-- R101: `n` words sum to at most `n * 0xFFFF`. -/
theorem wordSum_le (s : List Byte) : wordSum s ≤ (s.length + 1) / 2 * 0xFFFF := by
  induction s using wordSum.induct with
  | case1 => simp
  | case2 b => have := (be16 b 0).isLt; simp [wordSum]; omega
  | case3 x y rest ih =>
    have := (be16 x y).isLt
    simp only [wordSum, List.length_cons]
    rw [show (rest.length + 1 + 1 + 1) / 2 = (rest.length + 1) / 2 + 1 by omega]
    omega

/-- R102: a sum that fits 16 bits is not folded. -/
theorem foldLoop_of_le (n : Nat) {acc : Nat} (h : acc ≤ 0xFFFF) : foldLoop n acc = acc := by
  cases n with
  | zero => rfl
  | succ n => simp [foldLoop, show ¬ acc > 0xFFFF by omega]

/-- R102, the fold of a 32-bit accumulator in closed form: 0 stays 0, and every other sum goes to its residue
modulo 0xFFFF in 1 to 0xFFFF. -/
theorem fold_eq {acc : Nat} (h : acc < 2 ^ 32) : fold acc = if acc = 0 then 0 else (acc - 1) % 0xFFFF + 1 := by
  unfold fold
  rcases Nat.lt_or_ge 0xFFFF acc with h1 | h1
  · rw [foldLoop, if_pos h1]
    rcases Nat.lt_or_ge 0xFFFF (acc % 0x10000 + acc / 0x10000) with h2 | h2
    · rw [foldLoop, if_pos h2, foldLoop_of_le _ (by omega)]
      split <;> omega
    · rw [foldLoop_of_le _ h2]
      split <;> omega
  · rw [foldLoop_of_le _ h1]
    split <;> omega

theorem fold_le {acc : Nat} (h : acc < 2 ^ 32) : fold acc ≤ 0xFFFF := by
  rw [fold_eq h]
  split <;> omega

/-- R103 as a number. -/
theorem onesSum_toNat (s : List Byte) : (onesSum s).toNat = fold (accumulate s).toNat := by
  have := fold_le (accumulate s).isLt
  rw [onesSum, BitVec.toNat_ofNat]
  omega

/-- R104 as a number: `0xFFFF - OnesSum(s)`. -/
theorem checksum_toNat (s : List Byte) : (checksum s).toNat = 0xFFFF - (onesSum s).toNat := by
  rw [checksum, BitVec.toNat_not]

end Sys2Proof.Machine
end

