-- ==== Sys2Proof/Laws/State.lean ====
section
/-! SUPPORT. One lemma per field per named update of State, true by rfl, so that no proof unfolds a record update. -/

namespace Sys2Proof.Machine.State

variable (s : State)

@[simp] theorem respond_cmd (r : Response) : (s.respond r).cmd = s.cmd := rfl
@[simp] theorem respond_lastErr (r : Response) : (s.respond r).lastErr = s.lastErr := rfl
@[simp] theorem respond_errSeen (r : Response) : (s.respond r).errSeen = s.errSeen := rfl
@[simp] theorem respond_busErrSeen (r : Response) : (s.respond r).busErrSeen = s.busErrSeen := rfl
@[simp] theorem respond_sact (r : Response) : (s.respond r).sact = s.sact := rfl
@[simp] theorem respond_txValid (r : Response) : (s.respond r).txValid = s.txValid := rfl
@[simp] theorem respond_timeSec (r : Response) : (s.respond r).timeSec = s.timeSec := rfl
@[simp] theorem respond_timeUsec (r : Response) : (s.respond r).timeUsec = s.timeUsec := rfl
@[simp] theorem respond_ident (r : Response) : (s.respond r).ident = s.ident := rfl
@[simp] theorem respond_seqLast (r : Response) : (s.respond r).seqLast = s.seqLast := rfl
@[simp] theorem respond_tsSecLast (r : Response) : (s.respond r).tsSecLast = s.tsSecLast := rfl
@[simp] theorem respond_tsUsecLast (r : Response) : (s.respond r).tsUsecLast = s.tsUsecLast := rfl
@[simp] theorem respond_ckSum (r : Response) : (s.respond r).ckSum = s.ckSum := rfl
@[simp] theorem respond_ckResult (r : Response) : (s.respond r).ckResult = s.ckResult := rfl
@[simp] theorem respond_res (r : Response) : (s.respond r).res = s.res := rfl
@[simp] theorem respond_rxcap (r : Response) : (s.respond r).rxcap = s.rxcap := rfl
@[simp] theorem respond_mem (r : Response) : (s.respond r).mem = s.mem := rfl
@[simp] theorem respond_pending (r : Response) : (s.respond r).pending = s.pending := rfl
@[simp] theorem respond_responses (r : Response) : (s.respond r).responses = s.responses ++ [r] := rfl

@[simp] theorem raiseBusError_cmd (c : BusCause) : (s.raiseBusError c).cmd = s.cmd := rfl
@[simp] theorem raiseBusError_lastErr (c : BusCause) : (s.raiseBusError c).lastErr = s.lastErr := rfl
@[simp] theorem raiseBusError_errSeen (c : BusCause) : (s.raiseBusError c).errSeen = s.errSeen := rfl
@[simp] theorem raiseBusError_busErrSeen (c : BusCause) : (s.raiseBusError c).busErrSeen = true := rfl
@[simp] theorem raiseBusError_sact (c : BusCause) : (s.raiseBusError c).sact = s.sact := rfl
@[simp] theorem raiseBusError_txValid (c : BusCause) : (s.raiseBusError c).txValid = s.txValid := rfl
@[simp] theorem raiseBusError_timeSec (c : BusCause) : (s.raiseBusError c).timeSec = s.timeSec := rfl
@[simp] theorem raiseBusError_timeUsec (c : BusCause) : (s.raiseBusError c).timeUsec = s.timeUsec := rfl
@[simp] theorem raiseBusError_ident (c : BusCause) : (s.raiseBusError c).ident = s.ident := rfl
@[simp] theorem raiseBusError_seqLast (c : BusCause) : (s.raiseBusError c).seqLast = s.seqLast := rfl
@[simp] theorem raiseBusError_tsSecLast (c : BusCause) : (s.raiseBusError c).tsSecLast = s.tsSecLast := rfl
@[simp] theorem raiseBusError_tsUsecLast (c : BusCause) : (s.raiseBusError c).tsUsecLast = s.tsUsecLast := rfl
@[simp] theorem raiseBusError_ckSum (c : BusCause) : (s.raiseBusError c).ckSum = s.ckSum := rfl
@[simp] theorem raiseBusError_ckResult (c : BusCause) : (s.raiseBusError c).ckResult = s.ckResult := rfl
@[simp] theorem raiseBusError_res (c : BusCause) : (s.raiseBusError c).res = s.res := rfl
@[simp] theorem raiseBusError_rxcap (c : BusCause) : (s.raiseBusError c).rxcap = s.rxcap := rfl
@[simp] theorem raiseBusError_mem (c : BusCause) : (s.raiseBusError c).mem = s.mem := rfl
@[simp] theorem raiseBusError_pending (c : BusCause) : (s.raiseBusError c).pending = s.pending := rfl
@[simp] theorem raiseBusError_responses (c : BusCause) : (s.raiseBusError c).responses = s.responses ++ [.busError c] := rfl

@[simp] theorem raiseCmdError_cmd (e : ErrCode) : (s.raiseCmdError e).cmd = s.cmd := rfl
@[simp] theorem raiseCmdError_lastErr (e : ErrCode) : (s.raiseCmdError e).lastErr = e := rfl
@[simp] theorem raiseCmdError_errSeen (e : ErrCode) : (s.raiseCmdError e).errSeen = true := rfl
@[simp] theorem raiseCmdError_busErrSeen (e : ErrCode) : (s.raiseCmdError e).busErrSeen = s.busErrSeen := rfl
@[simp] theorem raiseCmdError_sact (e : ErrCode) : (s.raiseCmdError e).sact = s.sact := rfl
@[simp] theorem raiseCmdError_txValid (e : ErrCode) : (s.raiseCmdError e).txValid = s.txValid := rfl
@[simp] theorem raiseCmdError_timeSec (e : ErrCode) : (s.raiseCmdError e).timeSec = s.timeSec := rfl
@[simp] theorem raiseCmdError_timeUsec (e : ErrCode) : (s.raiseCmdError e).timeUsec = s.timeUsec := rfl
@[simp] theorem raiseCmdError_ident (e : ErrCode) : (s.raiseCmdError e).ident = s.ident := rfl
@[simp] theorem raiseCmdError_seqLast (e : ErrCode) : (s.raiseCmdError e).seqLast = s.seqLast := rfl
@[simp] theorem raiseCmdError_tsSecLast (e : ErrCode) : (s.raiseCmdError e).tsSecLast = s.tsSecLast := rfl
@[simp] theorem raiseCmdError_tsUsecLast (e : ErrCode) : (s.raiseCmdError e).tsUsecLast = s.tsUsecLast := rfl
@[simp] theorem raiseCmdError_ckSum (e : ErrCode) : (s.raiseCmdError e).ckSum = s.ckSum := rfl
@[simp] theorem raiseCmdError_ckResult (e : ErrCode) : (s.raiseCmdError e).ckResult = s.ckResult := rfl
@[simp] theorem raiseCmdError_res (e : ErrCode) : (s.raiseCmdError e).res = s.res := rfl
@[simp] theorem raiseCmdError_rxcap (e : ErrCode) : (s.raiseCmdError e).rxcap = s.rxcap := rfl
@[simp] theorem raiseCmdError_mem (e : ErrCode) : (s.raiseCmdError e).mem = s.mem := rfl
@[simp] theorem raiseCmdError_pending (e : ErrCode) : (s.raiseCmdError e).pending = s.pending := rfl
@[simp] theorem raiseCmdError_responses (e : ErrCode) : (s.raiseCmdError e).responses = s.responses := rfl

@[simp] theorem completeCmd_cmd : s.completeCmd.cmd = s.cmd := rfl
@[simp] theorem completeCmd_lastErr : s.completeCmd.lastErr = .ok := rfl
@[simp] theorem completeCmd_errSeen : s.completeCmd.errSeen = s.errSeen := rfl
@[simp] theorem completeCmd_busErrSeen : s.completeCmd.busErrSeen = s.busErrSeen := rfl
@[simp] theorem completeCmd_sact : s.completeCmd.sact = s.sact := rfl
@[simp] theorem completeCmd_txValid : s.completeCmd.txValid = s.txValid := rfl
@[simp] theorem completeCmd_timeSec : s.completeCmd.timeSec = s.timeSec := rfl
@[simp] theorem completeCmd_timeUsec : s.completeCmd.timeUsec = s.timeUsec := rfl
@[simp] theorem completeCmd_ident : s.completeCmd.ident = s.ident := rfl
@[simp] theorem completeCmd_seqLast : s.completeCmd.seqLast = s.seqLast := rfl
@[simp] theorem completeCmd_tsSecLast : s.completeCmd.tsSecLast = s.tsSecLast := rfl
@[simp] theorem completeCmd_tsUsecLast : s.completeCmd.tsUsecLast = s.tsUsecLast := rfl
@[simp] theorem completeCmd_ckSum : s.completeCmd.ckSum = s.ckSum := rfl
@[simp] theorem completeCmd_ckResult : s.completeCmd.ckResult = s.ckResult := rfl
@[simp] theorem completeCmd_res : s.completeCmd.res = s.res := rfl
@[simp] theorem completeCmd_rxcap : s.completeCmd.rxcap = s.rxcap := rfl
@[simp] theorem completeCmd_mem : s.completeCmd.mem = s.mem := rfl
@[simp] theorem completeCmd_pending : s.completeCmd.pending = s.pending := rfl
@[simp] theorem completeCmd_responses : s.completeCmd.responses = s.responses := rfl

@[simp] theorem storeCmd_cmd (w : Word) : (s.storeCmd w).cmd = w := rfl
@[simp] theorem storeCmd_lastErr (w : Word) : (s.storeCmd w).lastErr = s.lastErr := rfl
@[simp] theorem storeCmd_errSeen (w : Word) : (s.storeCmd w).errSeen = s.errSeen := rfl
@[simp] theorem storeCmd_busErrSeen (w : Word) : (s.storeCmd w).busErrSeen = s.busErrSeen := rfl
@[simp] theorem storeCmd_sact (w : Word) : (s.storeCmd w).sact = s.sact := rfl
@[simp] theorem storeCmd_txValid (w : Word) : (s.storeCmd w).txValid = s.txValid := rfl
@[simp] theorem storeCmd_timeSec (w : Word) : (s.storeCmd w).timeSec = s.timeSec := rfl
@[simp] theorem storeCmd_timeUsec (w : Word) : (s.storeCmd w).timeUsec = s.timeUsec := rfl
@[simp] theorem storeCmd_ident (w : Word) : (s.storeCmd w).ident = s.ident := rfl
@[simp] theorem storeCmd_seqLast (w : Word) : (s.storeCmd w).seqLast = s.seqLast := rfl
@[simp] theorem storeCmd_tsSecLast (w : Word) : (s.storeCmd w).tsSecLast = s.tsSecLast := rfl
@[simp] theorem storeCmd_tsUsecLast (w : Word) : (s.storeCmd w).tsUsecLast = s.tsUsecLast := rfl
@[simp] theorem storeCmd_ckSum (w : Word) : (s.storeCmd w).ckSum = s.ckSum := rfl
@[simp] theorem storeCmd_ckResult (w : Word) : (s.storeCmd w).ckResult = s.ckResult := rfl
@[simp] theorem storeCmd_res (w : Word) : (s.storeCmd w).res = s.res := rfl
@[simp] theorem storeCmd_rxcap (w : Word) : (s.storeCmd w).rxcap = s.rxcap := rfl
@[simp] theorem storeCmd_mem (w : Word) : (s.storeCmd w).mem = s.mem := rfl
@[simp] theorem storeCmd_pending (w : Word) : (s.storeCmd w).pending = s.pending := rfl
@[simp] theorem storeCmd_responses (w : Word) : (s.storeCmd w).responses = s.responses := rfl

@[simp] theorem setTimeSec_cmd (w : Word) : (s.setTimeSec w).cmd = s.cmd := rfl
@[simp] theorem setTimeSec_lastErr (w : Word) : (s.setTimeSec w).lastErr = s.lastErr := rfl
@[simp] theorem setTimeSec_errSeen (w : Word) : (s.setTimeSec w).errSeen = s.errSeen := rfl
@[simp] theorem setTimeSec_busErrSeen (w : Word) : (s.setTimeSec w).busErrSeen = s.busErrSeen := rfl
@[simp] theorem setTimeSec_sact (w : Word) : (s.setTimeSec w).sact = s.sact := rfl
@[simp] theorem setTimeSec_txValid (w : Word) : (s.setTimeSec w).txValid = s.txValid := rfl
@[simp] theorem setTimeSec_timeSec (w : Word) : (s.setTimeSec w).timeSec = w := rfl
@[simp] theorem setTimeSec_timeUsec (w : Word) : (s.setTimeSec w).timeUsec = s.timeUsec := rfl
@[simp] theorem setTimeSec_ident (w : Word) : (s.setTimeSec w).ident = s.ident := rfl
@[simp] theorem setTimeSec_seqLast (w : Word) : (s.setTimeSec w).seqLast = s.seqLast := rfl
@[simp] theorem setTimeSec_tsSecLast (w : Word) : (s.setTimeSec w).tsSecLast = s.tsSecLast := rfl
@[simp] theorem setTimeSec_tsUsecLast (w : Word) : (s.setTimeSec w).tsUsecLast = s.tsUsecLast := rfl
@[simp] theorem setTimeSec_ckSum (w : Word) : (s.setTimeSec w).ckSum = s.ckSum := rfl
@[simp] theorem setTimeSec_ckResult (w : Word) : (s.setTimeSec w).ckResult = s.ckResult := rfl
@[simp] theorem setTimeSec_res (w : Word) : (s.setTimeSec w).res = s.res := rfl
@[simp] theorem setTimeSec_rxcap (w : Word) : (s.setTimeSec w).rxcap = s.rxcap := rfl
@[simp] theorem setTimeSec_mem (w : Word) : (s.setTimeSec w).mem = s.mem := rfl
@[simp] theorem setTimeSec_pending (w : Word) : (s.setTimeSec w).pending = s.pending := rfl
@[simp] theorem setTimeSec_responses (w : Word) : (s.setTimeSec w).responses = s.responses := rfl

@[simp] theorem setTimeUsec_cmd (w : Word) : (s.setTimeUsec w).cmd = s.cmd := rfl
@[simp] theorem setTimeUsec_lastErr (w : Word) : (s.setTimeUsec w).lastErr = s.lastErr := rfl
@[simp] theorem setTimeUsec_errSeen (w : Word) : (s.setTimeUsec w).errSeen = s.errSeen := rfl
@[simp] theorem setTimeUsec_busErrSeen (w : Word) : (s.setTimeUsec w).busErrSeen = s.busErrSeen := rfl
@[simp] theorem setTimeUsec_sact (w : Word) : (s.setTimeUsec w).sact = s.sact := rfl
@[simp] theorem setTimeUsec_txValid (w : Word) : (s.setTimeUsec w).txValid = s.txValid := rfl
@[simp] theorem setTimeUsec_timeSec (w : Word) : (s.setTimeUsec w).timeSec = s.timeSec := rfl
@[simp] theorem setTimeUsec_timeUsec (w : Word) : (s.setTimeUsec w).timeUsec = w := rfl
@[simp] theorem setTimeUsec_ident (w : Word) : (s.setTimeUsec w).ident = s.ident := rfl
@[simp] theorem setTimeUsec_seqLast (w : Word) : (s.setTimeUsec w).seqLast = s.seqLast := rfl
@[simp] theorem setTimeUsec_tsSecLast (w : Word) : (s.setTimeUsec w).tsSecLast = s.tsSecLast := rfl
@[simp] theorem setTimeUsec_tsUsecLast (w : Word) : (s.setTimeUsec w).tsUsecLast = s.tsUsecLast := rfl
@[simp] theorem setTimeUsec_ckSum (w : Word) : (s.setTimeUsec w).ckSum = s.ckSum := rfl
@[simp] theorem setTimeUsec_ckResult (w : Word) : (s.setTimeUsec w).ckResult = s.ckResult := rfl
@[simp] theorem setTimeUsec_res (w : Word) : (s.setTimeUsec w).res = s.res := rfl
@[simp] theorem setTimeUsec_rxcap (w : Word) : (s.setTimeUsec w).rxcap = s.rxcap := rfl
@[simp] theorem setTimeUsec_mem (w : Word) : (s.setTimeUsec w).mem = s.mem := rfl
@[simp] theorem setTimeUsec_pending (w : Word) : (s.setTimeUsec w).pending = s.pending := rfl
@[simp] theorem setTimeUsec_responses (w : Word) : (s.setTimeUsec w).responses = s.responses := rfl

@[simp] theorem memWrite_cmd (a : Nat) (bs : List Byte) : (s.memWrite a bs).cmd = s.cmd := rfl
@[simp] theorem memWrite_lastErr (a : Nat) (bs : List Byte) : (s.memWrite a bs).lastErr = s.lastErr := rfl
@[simp] theorem memWrite_errSeen (a : Nat) (bs : List Byte) : (s.memWrite a bs).errSeen = s.errSeen := rfl
@[simp] theorem memWrite_busErrSeen (a : Nat) (bs : List Byte) : (s.memWrite a bs).busErrSeen = s.busErrSeen := rfl
@[simp] theorem memWrite_sact (a : Nat) (bs : List Byte) : (s.memWrite a bs).sact = s.sact := rfl
@[simp] theorem memWrite_txValid (a : Nat) (bs : List Byte) : (s.memWrite a bs).txValid = s.txValid := rfl
@[simp] theorem memWrite_timeSec (a : Nat) (bs : List Byte) : (s.memWrite a bs).timeSec = s.timeSec := rfl
@[simp] theorem memWrite_timeUsec (a : Nat) (bs : List Byte) : (s.memWrite a bs).timeUsec = s.timeUsec := rfl
@[simp] theorem memWrite_ident (a : Nat) (bs : List Byte) : (s.memWrite a bs).ident = s.ident := rfl
@[simp] theorem memWrite_seqLast (a : Nat) (bs : List Byte) : (s.memWrite a bs).seqLast = s.seqLast := rfl
@[simp] theorem memWrite_tsSecLast (a : Nat) (bs : List Byte) : (s.memWrite a bs).tsSecLast = s.tsSecLast := rfl
@[simp] theorem memWrite_tsUsecLast (a : Nat) (bs : List Byte) : (s.memWrite a bs).tsUsecLast = s.tsUsecLast := rfl
@[simp] theorem memWrite_ckSum (a : Nat) (bs : List Byte) : (s.memWrite a bs).ckSum = s.ckSum := rfl
@[simp] theorem memWrite_ckResult (a : Nat) (bs : List Byte) : (s.memWrite a bs).ckResult = s.ckResult := rfl
@[simp] theorem memWrite_res (a : Nat) (bs : List Byte) : (s.memWrite a bs).res = s.res := rfl
@[simp] theorem memWrite_rxcap (a : Nat) (bs : List Byte) : (s.memWrite a bs).rxcap = s.rxcap := rfl
@[simp] theorem memWrite_mem (a : Nat) (bs : List Byte) : (s.memWrite a bs).mem = Memory.writeBytes s.mem a bs := rfl
@[simp] theorem memWrite_pending (a : Nat) (bs : List Byte) : (s.memWrite a bs).pending = s.pending := rfl
@[simp] theorem memWrite_responses (a : Nat) (bs : List Byte) : (s.memWrite a bs).responses = s.responses := rfl

@[simp] theorem setChecksum_cmd (bs : List Byte) : (s.setChecksum bs).cmd = s.cmd := rfl
@[simp] theorem setChecksum_lastErr (bs : List Byte) : (s.setChecksum bs).lastErr = s.lastErr := rfl
@[simp] theorem setChecksum_errSeen (bs : List Byte) : (s.setChecksum bs).errSeen = s.errSeen := rfl
@[simp] theorem setChecksum_busErrSeen (bs : List Byte) : (s.setChecksum bs).busErrSeen = s.busErrSeen := rfl
@[simp] theorem setChecksum_sact (bs : List Byte) : (s.setChecksum bs).sact = s.sact := rfl
@[simp] theorem setChecksum_txValid (bs : List Byte) : (s.setChecksum bs).txValid = s.txValid := rfl
@[simp] theorem setChecksum_timeSec (bs : List Byte) : (s.setChecksum bs).timeSec = s.timeSec := rfl
@[simp] theorem setChecksum_timeUsec (bs : List Byte) : (s.setChecksum bs).timeUsec = s.timeUsec := rfl
@[simp] theorem setChecksum_ident (bs : List Byte) : (s.setChecksum bs).ident = s.ident := rfl
@[simp] theorem setChecksum_seqLast (bs : List Byte) : (s.setChecksum bs).seqLast = s.seqLast := rfl
@[simp] theorem setChecksum_tsSecLast (bs : List Byte) : (s.setChecksum bs).tsSecLast = s.tsSecLast := rfl
@[simp] theorem setChecksum_tsUsecLast (bs : List Byte) : (s.setChecksum bs).tsUsecLast = s.tsUsecLast := rfl
@[simp] theorem setChecksum_ckSum (bs : List Byte) : (s.setChecksum bs).ckSum = onesSum bs := rfl
@[simp] theorem setChecksum_ckResult (bs : List Byte) : (s.setChecksum bs).ckResult = checksum bs := rfl
@[simp] theorem setChecksum_res (bs : List Byte) : (s.setChecksum bs).res = s.res := rfl
@[simp] theorem setChecksum_rxcap (bs : List Byte) : (s.setChecksum bs).rxcap = s.rxcap := rfl
@[simp] theorem setChecksum_mem (bs : List Byte) : (s.setChecksum bs).mem = s.mem := rfl
@[simp] theorem setChecksum_pending (bs : List Byte) : (s.setChecksum bs).pending = s.pending := rfl
@[simp] theorem setChecksum_responses (bs : List Byte) : (s.setChecksum bs).responses = s.responses := rfl

@[simp] theorem setResult_cmd (r : ProbeResult) : (s.setResult r).cmd = s.cmd := rfl
@[simp] theorem setResult_lastErr (r : ProbeResult) : (s.setResult r).lastErr = s.lastErr := rfl
@[simp] theorem setResult_errSeen (r : ProbeResult) : (s.setResult r).errSeen = s.errSeen := rfl
@[simp] theorem setResult_busErrSeen (r : ProbeResult) : (s.setResult r).busErrSeen = s.busErrSeen := rfl
@[simp] theorem setResult_sact (r : ProbeResult) : (s.setResult r).sact = s.sact := rfl
@[simp] theorem setResult_txValid (r : ProbeResult) : (s.setResult r).txValid = s.txValid := rfl
@[simp] theorem setResult_timeSec (r : ProbeResult) : (s.setResult r).timeSec = s.timeSec := rfl
@[simp] theorem setResult_timeUsec (r : ProbeResult) : (s.setResult r).timeUsec = s.timeUsec := rfl
@[simp] theorem setResult_ident (r : ProbeResult) : (s.setResult r).ident = s.ident := rfl
@[simp] theorem setResult_seqLast (r : ProbeResult) : (s.setResult r).seqLast = s.seqLast := rfl
@[simp] theorem setResult_tsSecLast (r : ProbeResult) : (s.setResult r).tsSecLast = s.tsSecLast := rfl
@[simp] theorem setResult_tsUsecLast (r : ProbeResult) : (s.setResult r).tsUsecLast = s.tsUsecLast := rfl
@[simp] theorem setResult_ckSum (r : ProbeResult) : (s.setResult r).ckSum = s.ckSum := rfl
@[simp] theorem setResult_ckResult (r : ProbeResult) : (s.setResult r).ckResult = s.ckResult := rfl
@[simp] theorem setResult_res (r : ProbeResult) : (s.setResult r).res = r := rfl
@[simp] theorem setResult_rxcap (r : ProbeResult) : (s.setResult r).rxcap = s.rxcap := rfl
@[simp] theorem setResult_mem (r : ProbeResult) : (s.setResult r).mem = s.mem := rfl
@[simp] theorem setResult_pending (r : ProbeResult) : (s.setResult r).pending = s.pending := rfl
@[simp] theorem setResult_responses (r : ProbeResult) : (s.setResult r).responses = s.responses := rfl

@[simp] theorem takeEvent_cmd (l : List HostEvent) : (s.takeEvent l).cmd = s.cmd := rfl
@[simp] theorem takeEvent_lastErr (l : List HostEvent) : (s.takeEvent l).lastErr = s.lastErr := rfl
@[simp] theorem takeEvent_errSeen (l : List HostEvent) : (s.takeEvent l).errSeen = s.errSeen := rfl
@[simp] theorem takeEvent_busErrSeen (l : List HostEvent) : (s.takeEvent l).busErrSeen = s.busErrSeen := rfl
@[simp] theorem takeEvent_sact (l : List HostEvent) : (s.takeEvent l).sact = s.sact := rfl
@[simp] theorem takeEvent_txValid (l : List HostEvent) : (s.takeEvent l).txValid = s.txValid := rfl
@[simp] theorem takeEvent_timeSec (l : List HostEvent) : (s.takeEvent l).timeSec = s.timeSec := rfl
@[simp] theorem takeEvent_timeUsec (l : List HostEvent) : (s.takeEvent l).timeUsec = s.timeUsec := rfl
@[simp] theorem takeEvent_ident (l : List HostEvent) : (s.takeEvent l).ident = s.ident := rfl
@[simp] theorem takeEvent_seqLast (l : List HostEvent) : (s.takeEvent l).seqLast = s.seqLast := rfl
@[simp] theorem takeEvent_tsSecLast (l : List HostEvent) : (s.takeEvent l).tsSecLast = s.tsSecLast := rfl
@[simp] theorem takeEvent_tsUsecLast (l : List HostEvent) : (s.takeEvent l).tsUsecLast = s.tsUsecLast := rfl
@[simp] theorem takeEvent_ckSum (l : List HostEvent) : (s.takeEvent l).ckSum = s.ckSum := rfl
@[simp] theorem takeEvent_ckResult (l : List HostEvent) : (s.takeEvent l).ckResult = s.ckResult := rfl
@[simp] theorem takeEvent_res (l : List HostEvent) : (s.takeEvent l).res = s.res := rfl
@[simp] theorem takeEvent_rxcap (l : List HostEvent) : (s.takeEvent l).rxcap = s.rxcap := rfl
@[simp] theorem takeEvent_mem (l : List HostEvent) : (s.takeEvent l).mem = s.mem := rfl
@[simp] theorem takeEvent_pending (l : List HostEvent) : (s.takeEvent l).pending = l := rfl
@[simp] theorem takeEvent_responses (l : List HostEvent) : (s.takeEvent l).responses = s.responses := rfl

@[simp] theorem openSession_cmd (id : Half) : (s.openSession id).cmd = s.cmd := rfl
@[simp] theorem openSession_lastErr (id : Half) : (s.openSession id).lastErr = s.lastErr := rfl
@[simp] theorem openSession_errSeen (id : Half) : (s.openSession id).errSeen = s.errSeen := rfl
@[simp] theorem openSession_busErrSeen (id : Half) : (s.openSession id).busErrSeen = s.busErrSeen := rfl
@[simp] theorem openSession_sact (id : Half) : (s.openSession id).sact = true := rfl
@[simp] theorem openSession_txValid (id : Half) : (s.openSession id).txValid = false := rfl
@[simp] theorem openSession_timeSec (id : Half) : (s.openSession id).timeSec = s.timeSec := rfl
@[simp] theorem openSession_timeUsec (id : Half) : (s.openSession id).timeUsec = s.timeUsec := rfl
@[simp] theorem openSession_ident (id : Half) : (s.openSession id).ident = id := rfl
@[simp] theorem openSession_seqLast (id : Half) : (s.openSession id).seqLast = 0 := rfl
@[simp] theorem openSession_tsSecLast (id : Half) : (s.openSession id).tsSecLast = 0 := rfl
@[simp] theorem openSession_tsUsecLast (id : Half) : (s.openSession id).tsUsecLast = 0 := rfl
@[simp] theorem openSession_ckSum (id : Half) : (s.openSession id).ckSum = s.ckSum := rfl
@[simp] theorem openSession_ckResult (id : Half) : (s.openSession id).ckResult = s.ckResult := rfl
@[simp] theorem openSession_res (id : Half) : (s.openSession id).res = ProbeResult.cleared := rfl
@[simp] theorem openSession_rxcap (id : Half) : (s.openSession id).rxcap = s.rxcap := rfl
@[simp] theorem openSession_mem (id : Half) : (s.openSession id).mem = s.mem := rfl
@[simp] theorem openSession_pending (id : Half) : (s.openSession id).pending = s.pending := rfl
@[simp] theorem openSession_responses (id : Half) : (s.openSession id).responses = s.responses := rfl

@[simp] theorem closeSession_cmd : s.closeSession.cmd = s.cmd := rfl
@[simp] theorem closeSession_lastErr : s.closeSession.lastErr = s.lastErr := rfl
@[simp] theorem closeSession_errSeen : s.closeSession.errSeen = s.errSeen := rfl
@[simp] theorem closeSession_busErrSeen : s.closeSession.busErrSeen = s.busErrSeen := rfl
@[simp] theorem closeSession_sact : s.closeSession.sact = false := rfl
@[simp] theorem closeSession_txValid : s.closeSession.txValid = false := rfl
@[simp] theorem closeSession_timeSec : s.closeSession.timeSec = s.timeSec := rfl
@[simp] theorem closeSession_timeUsec : s.closeSession.timeUsec = s.timeUsec := rfl
@[simp] theorem closeSession_ident : s.closeSession.ident = s.ident := rfl
@[simp] theorem closeSession_seqLast : s.closeSession.seqLast = s.seqLast := rfl
@[simp] theorem closeSession_tsSecLast : s.closeSession.tsSecLast = s.tsSecLast := rfl
@[simp] theorem closeSession_tsUsecLast : s.closeSession.tsUsecLast = s.tsUsecLast := rfl
@[simp] theorem closeSession_ckSum : s.closeSession.ckSum = s.ckSum := rfl
@[simp] theorem closeSession_ckResult : s.closeSession.ckResult = s.ckResult := rfl
@[simp] theorem closeSession_res : s.closeSession.res = s.res := rfl
@[simp] theorem closeSession_rxcap : s.closeSession.rxcap = s.rxcap := rfl
@[simp] theorem closeSession_mem : s.closeSession.mem = s.mem := rfl
@[simp] theorem closeSession_pending : s.closeSession.pending = s.pending := rfl
@[simp] theorem closeSession_responses : s.closeSession.responses = s.responses := rfl

@[simp] theorem latchPacket_cmd (seq : Half) : (s.latchPacket seq).cmd = s.cmd := rfl
@[simp] theorem latchPacket_lastErr (seq : Half) : (s.latchPacket seq).lastErr = s.lastErr := rfl
@[simp] theorem latchPacket_errSeen (seq : Half) : (s.latchPacket seq).errSeen = s.errSeen := rfl
@[simp] theorem latchPacket_busErrSeen (seq : Half) : (s.latchPacket seq).busErrSeen = s.busErrSeen := rfl
@[simp] theorem latchPacket_sact (seq : Half) : (s.latchPacket seq).sact = s.sact := rfl
@[simp] theorem latchPacket_txValid (seq : Half) : (s.latchPacket seq).txValid = true := rfl
@[simp] theorem latchPacket_timeSec (seq : Half) : (s.latchPacket seq).timeSec = s.timeSec := rfl
@[simp] theorem latchPacket_timeUsec (seq : Half) : (s.latchPacket seq).timeUsec = s.timeUsec := rfl
@[simp] theorem latchPacket_ident (seq : Half) : (s.latchPacket seq).ident = s.ident := rfl
@[simp] theorem latchPacket_seqLast (seq : Half) : (s.latchPacket seq).seqLast = seq := rfl
@[simp] theorem latchPacket_tsSecLast (seq : Half) : (s.latchPacket seq).tsSecLast = s.timeSec := rfl
@[simp] theorem latchPacket_tsUsecLast (seq : Half) : (s.latchPacket seq).tsUsecLast = s.timeUsec := rfl
@[simp] theorem latchPacket_ckSum (seq : Half) : (s.latchPacket seq).ckSum = s.ckSum := rfl
@[simp] theorem latchPacket_ckResult (seq : Half) : (s.latchPacket seq).ckResult = s.ckResult := rfl
@[simp] theorem latchPacket_res (seq : Half) : (s.latchPacket seq).res = s.res := rfl
@[simp] theorem latchPacket_rxcap (seq : Half) : (s.latchPacket seq).rxcap = s.rxcap := rfl
@[simp] theorem latchPacket_mem (seq : Half) : (s.latchPacket seq).mem = Memory.writeBytes s.mem Config.txBase (echoRequest s.ident seq s.timeSec s.timeUsec) := by rw [latchPacket]
@[simp] theorem latchPacket_pending (seq : Half) : (s.latchPacket seq).pending = s.pending := rfl
@[simp] theorem latchPacket_responses (seq : Half) : (s.latchPacket seq).responses = s.responses := rfl

@[simp] theorem applyReset_cmd : s.applyReset.cmd = 0 := rfl
@[simp] theorem applyReset_lastErr : s.applyReset.lastErr = .ok := rfl
@[simp] theorem applyReset_errSeen : s.applyReset.errSeen = false := rfl
@[simp] theorem applyReset_busErrSeen : s.applyReset.busErrSeen = false := rfl
@[simp] theorem applyReset_sact : s.applyReset.sact = false := rfl
@[simp] theorem applyReset_txValid : s.applyReset.txValid = false := rfl
@[simp] theorem applyReset_timeSec : s.applyReset.timeSec = 0 := rfl
@[simp] theorem applyReset_timeUsec : s.applyReset.timeUsec = 0 := rfl
@[simp] theorem applyReset_ident : s.applyReset.ident = 0 := rfl
@[simp] theorem applyReset_seqLast : s.applyReset.seqLast = 0 := rfl
@[simp] theorem applyReset_tsSecLast : s.applyReset.tsSecLast = 0 := rfl
@[simp] theorem applyReset_tsUsecLast : s.applyReset.tsUsecLast = 0 := rfl
@[simp] theorem applyReset_ckSum : s.applyReset.ckSum = 0 := rfl
@[simp] theorem applyReset_ckResult : s.applyReset.ckResult = 0 := rfl
@[simp] theorem applyReset_res : s.applyReset.res = ProbeResult.cleared := rfl
@[simp] theorem applyReset_rxcap : s.applyReset.rxcap = s.rxcap := rfl
@[simp] theorem applyReset_mem : s.applyReset.mem = [] := rfl
@[simp] theorem applyReset_pending : s.applyReset.pending = s.pending := rfl
@[simp] theorem applyReset_responses : s.applyReset.responses = s.responses := rfl

end Sys2Proof.Machine.State
end

