-- ==== Sys2Proof/Laws/Effect.lean ====
section
/-! SUPPORT. What each shared operation can do, said once: the windows an address decodes to, and every way an
instruction can answer a next state (`Effect`), so that no proof over all instructions unfolds a meaning. -/

namespace Sys2Proof.Machine

theorem Reg.atOffset_offset (r : Reg) : Reg.atOffset r.offset = some r := by cases r <;> rfl

theorem Reg.offset_of_atOffset {a : Nat} {r : Reg} (h : Reg.atOffset a = some r) : a = r.offset := by
  unfold Reg.atOffset at h
  split at h <;> first | (cases h; rfl) | cases h

/-- R24: every 4-byte-aligned offset of the register window has a register. -/
theorem Reg.atOffset_aligned {a : Nat} (h4 : a % 4 = 0) (h : a ≤ 0x58) : ∃ r, Reg.atOffset a = some r := by
  obtain ⟨k, rfl⟩ : ∃ k, a = 4 * k := ⟨a / 4, by omega⟩
  have hk : k ≤ 22 := by omega
  interval_cases k <;> exact ⟨_, rfl⟩

/-- An access of `n` bytes at host address `a` that lies in a window. -/
def Window.Holds (n a : Nat) (cap : Half) : Window → Prop
  | .reg r => n = 4 ∧ a = r.offset
  | .tx i => a = Config.txBase + i ∧ i + n ≤ Config.txLen
  | .rx i => a = Config.rxBase + i ∧ i + n ≤ cap.toNat

/-- R56: what an address that decodes says of the access. -/
theorem decodeAddr_ok {n : Nat} {addr : Word} {cap : Half} {w : Window} (_hn : 0 < n)
    (h : decodeAddr n addr cap = .ok w) : addr.toNat % n = 0 ∧ w.Holds n addr.toNat cap := by
  simp only [decodeAddr, Config.regLast, Config.txBase, Config.rxBase, Config.txLen] at h
  split at h
  · cases h
  · next h0 =>
    refine ⟨by omega, ?_⟩
    split at h
    · split at h
      · cases h
      · next h4 =>
        cases hr : Reg.atOffset addr.toNat with
        | some r => rw [hr] at h; cases h; exact ⟨by omega, Reg.offset_of_atOffset hr⟩
        | none => rw [hr] at h; cases h
    · split at h
      · cases h; simp only [Window.Holds, Config.txBase, Config.txLen]; omega
      · split at h
        · cases h; simp only [Window.Holds, Config.rxBase]; omega
        · cases h

/-- R51: the aligned word access to a register decodes to it. -/
theorem decodeAddr_reg (r : Reg) (cap : Half) :
    decodeAddr 4 (BitVec.ofNat 32 r.offset) cap = .ok (.reg r) := by
  cases r <;> rfl

/-- Everything a read can answer (R181 to R183). -/
theorem busRead_cases {n : Nat} {addr : Word} {s : State} {pack : List Byte → Response} {onReg : Reg → Outcome} :
    (∃ c, decodeAddr n addr s.rxcap = .error c ∧ busRead n addr s pack onReg = .next (s.raiseBusError c)) ∨
    (∃ r, decodeAddr n addr s.rxcap = .ok (.reg r) ∧ busRead n addr s pack onReg = onReg r) ∨
    (∃ i, decodeAddr n addr s.rxcap = .ok (.tx i) ∧
      busRead n addr s pack onReg = .next (s.respond (pack (txRange s.mem i n)))) ∨
    (∃ i bs, decodeAddr n addr s.rxcap = .ok (.rx i) ∧ rxRange s.mem i n = .ok bs ∧
      busRead n addr s pack onReg = .next (s.respond (pack bs))) ∨
    (∃ i f, decodeAddr n addr s.rxcap = .ok (.rx i) ∧ rxRange s.mem i n = .error f ∧
      busRead n addr s pack onReg = .fault f) := by
  unfold busRead busAccess
  cases hd : decodeAddr n addr s.rxcap with
  | error c => exact .inl ⟨c, rfl, rfl⟩
  | ok w =>
    cases w with
    | reg r => exact .inr (.inl ⟨r, rfl, rfl⟩)
    | tx i => exact .inr (.inr (.inl ⟨i, rfl, rfl⟩))
    | rx i =>
      cases hr : rxRange s.mem i n with
      | ok bs => exact .inr (.inr (.inr (.inl ⟨i, bs, rfl, hr, by simp [hr]⟩)))
      | error f => exact .inr (.inr (.inr (.inr ⟨i, f, rfl, hr, by simp [hr]⟩)))

/-- Everything a write can answer (R184 to R186). -/
theorem busWrite_cases {n : Nat} {addr : Word} {s : State} {bs : List Byte} {onReg : Reg → Outcome} :
    (∃ c, decodeAddr n addr s.rxcap = .error c ∧ busWrite n addr s bs onReg = .next (s.raiseBusError c)) ∨
    (∃ r, decodeAddr n addr s.rxcap = .ok (.reg r) ∧ busWrite n addr s bs onReg = onReg r) ∨
    (∃ i, decodeAddr n addr s.rxcap = .ok (.tx i) ∧
      busWrite n addr s bs onReg = .next (s.raiseBusError .readOnly)) ∨
    (∃ i, decodeAddr n addr s.rxcap = .ok (.rx i) ∧
      busWrite n addr s bs onReg = .next ((s.memWrite addr.toNat bs).respond .done)) := by
  unfold busWrite busAccess
  cases hd : decodeAddr n addr s.rxcap with
  | error c => exact .inl ⟨c, rfl, rfl⟩
  | ok w =>
    cases w with
    | reg r => exact .inr (.inl ⟨r, rfl, rfl⟩)
    | tx i => exact .inr (.inr (.inl ⟨i, rfl, rfl⟩))
    | rx i => exact .inr (.inr (.inr ⟨i, rfl, rfl⟩))

/-- Every way an instruction can answer a next state. -/
inductive Effect : Instr → State → State → Prop
  | nop (s) : Effect .nop s s.completeCmd
  | session (id s) : Effect (.session id) s (s.openSession id).completeCmd
  | endSession (s) : Effect .endSession s s.closeSession.completeCmd
  | build (seq s) : s.sact = true → s.timeUsec.toNat < 1000000 →
      Effect (.build seq) s (s.latchPacket seq).completeCmd
  | buildState (seq s) : s.sact = false → Effect (.build seq) s (s.raiseCmdError .estate)
  | buildTime (seq s) : s.sact = true → 1000000 ≤ s.timeUsec.toNat →
      Effect (.build seq) s (s.raiseCmdError .ebadtime)
  | parseState (len s) : s.txValid = false → Effect (.parse len) s (s.raiseCmdError .estate)
  | parseLen (len s) : s.txValid = true → s.rxcap.toNat < len.toNat →
      Effect (.parse len) s (s.raiseCmdError .ebadlen)
  | parseTime (len s) : s.txValid = true → len.toNat ≤ s.rxcap.toNat → 1000000 ≤ s.timeUsec.toNat →
      Effect (.parse len) s (s.raiseCmdError .ebadtime)
  | parseShort (len s) : s.txValid = true → len.toNat ≤ s.rxcap.toNat → s.timeUsec.toNat < 1000000 →
      len.toNat < 28 → Effect (.parse len) s (s.setResult (shortResult s.seqLast)).completeCmd
  | parseOk (len s r) : s.txValid = true → len.toNat ≤ s.rxcap.toNat → s.timeUsec.toNat < 1000000 →
      28 ≤ len.toNat → readReply s.mem len.toNat = .ok r →
      Effect (.parse len) s (s.setResult (replyResult s len r)).completeCmd
  | cksumLen (len s) : s.rxcap.toNat < len.toNat → Effect (.cksum len) s (s.raiseCmdError .ebadlen)
  | cksum (len s bs) : len.toNat ≤ s.rxcap.toNat → rxRange s.mem 0 len.toNat = .ok bs →
      Effect (.cksum len) s (s.setChecksum bs).completeCmd
  | cktx (s) : Effect .cktx s (s.setChecksum (txRange s.mem 0 64)).completeCmd
  | rd8 (addr s v) : Effect (.rd8 addr) s (s.respond (.data8 v))
  | rd8Error (addr s c) : Effect (.rd8 addr) s (s.raiseBusError c)
  | rd16 (addr s v) : Effect (.rd16 addr) s (s.respond (.data16 v))
  | rd16Error (addr s c) : Effect (.rd16 addr) s (s.raiseBusError c)
  | rd32 (addr s v) : Effect (.rd32 addr) s (s.respond (.data32 v))
  | rd32Error (addr s c) : Effect (.rd32 addr) s (s.raiseBusError c)
  | wr8 (addr data s i) : decodeAddr 1 addr s.rxcap = .ok (.rx i) →
      Effect (.wr8 addr data) s ((s.memWrite addr.toNat [data.extractLsb' 0 8]).respond .done)
  | wr8Error (addr data s c) : Effect (.wr8 addr data) s (s.raiseBusError c)
  | wr16 (addr data s i) : decodeAddr 2 addr s.rxcap = .ok (.rx i) →
      Effect (.wr16 addr data) s ((s.memWrite addr.toNat (bytesBe16 (data.extractLsb' 0 16))).respond .done)
  | wr16Error (addr data s c) : Effect (.wr16 addr data) s (s.raiseBusError c)
  | wr32 (addr data s i) : decodeAddr 4 addr s.rxcap = .ok (.rx i) →
      Effect (.wr32 addr data) s ((s.memWrite addr.toNat (bytesBe32 data)).respond .done)
  | wr32Error (addr data s c) : Effect (.wr32 addr data) s (s.raiseBusError c)
  | timeSec (addr data s) : addr.toNat = 8 → Effect (.wr32 addr data) s ((s.setTimeSec data).respond .done)
  | timeUsec (addr data s) : addr.toNat = 12 → Effect (.wr32 addr data) s ((s.setTimeUsec data).respond .done)
  | illegal (addr data s) : addr.toNat = 0 →
      Effect (.wr32 addr data) s (((s.storeCmd data).raiseCmdError .eillegal).respond .done)
  | command (addr data s c t) : addr.toNat = 0 → decodeCommand data = .ok c → Effect c (s.storeCmd data) t →
      Effect (.wr32 addr data) s (t.respond .done)

/-- R122: what `BUILD` can do. -/
theorem execBuild_effect {seq : Half} {s t : State} (h : execBuild seq s = .next t) : Effect (.build seq) s t := by
  unfold execBuild at h
  split at h
  · next h1 => cases h; exact .buildState _ _ h1
  · next h1 =>
    split at h
    · next h2 => cases h; exact .buildTime _ _ (by simpa using h1) h2
    · next h2 => cases h; exact .build _ _ (by simpa using h1) (by simpa using h2)

/-- R149: what `PARSE` can do. -/
theorem execParse_effect {len : Half} {s t : State} (h : execParse len s = .next t) : Effect (.parse len) s t := by
  unfold execParse at h
  split at h
  · next h1 => cases h; exact .parseState _ _ h1
  · next h1 =>
    replace h1 : s.txValid = true := by simpa using h1
    split at h
    · next h2 => cases h; exact .parseLen _ _ h1 h2
    · next h2 =>
      replace h2 := not_lt.1 h2
      split at h
      · next h3 => cases h; exact .parseTime _ _ h1 h2 h3
      · next h3 =>
        replace h3 := not_le.1 h3
        split at h
        · next h4 => cases h; exact .parseShort _ _ h1 h2 h3 h4
        · next h4 =>
          split at h
          · cases h
          · next r hr => cases h; exact .parseOk _ _ r h1 h2 h3 (not_lt.1 h4) hr

/-- R105: what `CKSUM` can do. -/
theorem execCksum_effect {len : Half} {s t : State} (h : execCksum len s = .next t) : Effect (.cksum len) s t := by
  unfold execCksum at h
  split at h
  · next h1 => cases h; exact .cksumLen _ _ h1
  · next h1 =>
    split at h
    · cases h
    · next bs hb => cases h; exact .cksum _ _ bs (not_lt.1 h1) hb

/-- R75: what a decoded command can do is what its own meaning does. -/
theorem runCommand_eq_exec {i : Instr} (h : i.isCommand = true) (s : State) : runCommand i s = exec i s := by
  cases i <;> first | rfl | cases h

/-- What a command can do. -/
theorem exec_effect_command {i : Instr} {s t : State} (hi : i.isCommand = true) (h : exec i s = .next t) :
    Effect i s t := by
  cases i with
  | nop => cases h; exact .nop s
  | session id => cases h; exact .session id s
  | build seq => exact execBuild_effect h
  | parse len => exact execParse_effect h
  | cksum len => exact execCksum_effect h
  | cktx => cases h; exact .cktx s
  | endSession => cases h; exact .endSession s
  | rd8 _ => cases hi
  | rd16 _ => cases hi
  | rd32 _ => cases hi
  | wr8 _ _ => cases hi
  | wr16 _ _ => cases hi
  | wr32 _ _ => cases hi

theorem answerDone_next {o : Outcome} {t : State} (h : answerDone o = .next t) :
    ∃ u, o = .next u ∧ t = u.respond .done := by
  cases o with
  | next u => cases h; exact ⟨u, rfl, rfl⟩
  | fault f => cases h
  | refused r => cases h

/-- R186: what a `WR32` to a register can do. -/
theorem writeReg_effect {addr data : Word} {s t : State} {r : Reg} (ha : addr.toNat = r.offset)
    (h : writeReg data s r = .next t) : Effect (.wr32 addr data) s t := by
  cases r with
  | cmd =>
    obtain ⟨u, hu, rfl⟩ := answerDone_next h
    unfold execCommandWord at hu
    split at hu
    · cases hu; exact .illegal _ _ _ ha
    · next c hc =>
      have hcmd := decodeCommand_isCommand hc
      rw [runCommand_eq_exec hcmd] at hu
      exact .command _ _ _ c u ha hc (exec_effect_command hcmd hu)
  | timeSec => cases h; exact .timeSec _ _ _ ha
  | timeUsec => cases h; exact .timeUsec _ _ _ ha
  | _ => cases h; exact .wr32Error _ _ _ _

theorem refuseWide_next {n : Nat} {data : Word} {o : Outcome} {t : State} (h : refuseWide n data o = .next t) :
    dataFits n data = true ∧ o = .next t := by
  unfold refuseWide at h
  split at h
  · next hf => exact ⟨hf, h⟩
  · cases h

/-- Every next state of every instruction is one of the effects. -/
theorem exec_effect {i : Instr} {s t : State} (h : exec i s = .next t) : Effect i s t := by
  cases i with
  | nop => exact exec_effect_command rfl h
  | session id => exact exec_effect_command rfl h
  | build seq => exact exec_effect_command rfl h
  | parse len => exact exec_effect_command rfl h
  | cksum len => exact exec_effect_command rfl h
  | cktx => exact exec_effect_command rfl h
  | endSession => exact exec_effect_command rfl h
  | rd8 addr =>
    change execRd8 addr s = _ at h
    unfold execRd8 at h
    rcases busRead_cases (n := 1) (addr := addr) (s := s) (pack := fun bs => .data8 (byteAt bs 0))
      (onReg := narrowReg s) with ⟨c, -, e⟩ | ⟨r, -, e⟩ | ⟨i, -, e⟩ | ⟨i, bs, -, -, e⟩ | ⟨i, f, -, -, e⟩ <;>
      rw [e] at h <;> cases h <;> first | exact .rd8Error _ _ _ | exact .rd8 _ _ _
  | rd16 addr =>
    change execRd16 addr s = _ at h
    unfold execRd16 at h
    rcases busRead_cases (n := 2) (addr := addr) (s := s) (pack := fun bs => .data16 (be16At bs 0))
      (onReg := narrowReg s) with ⟨c, -, e⟩ | ⟨r, -, e⟩ | ⟨i, -, e⟩ | ⟨i, bs, -, -, e⟩ | ⟨i, f, -, -, e⟩ <;>
      rw [e] at h <;> cases h <;> first | exact .rd16Error _ _ _ | exact .rd16 _ _ _
  | rd32 addr =>
    change execRd32 addr s = _ at h
    unfold execRd32 at h
    rcases busRead_cases (n := 4) (addr := addr) (s := s) (pack := fun bs => .data32 (be32At bs 0))
      (onReg := fun r => .next (s.respond (.data32 (s.readReg r)))) with
      ⟨c, -, e⟩ | ⟨r, -, e⟩ | ⟨i, -, e⟩ | ⟨i, bs, -, -, e⟩ | ⟨i, f, -, -, e⟩ <;>
      rw [e] at h <;> cases h <;> first | exact .rd32Error _ _ _ | exact .rd32 _ _ _
  | wr8 addr data =>
    obtain ⟨-, h⟩ := refuseWide_next h
    rcases busWrite_cases (n := 1) (addr := addr) (s := s) (bs := [data.extractLsb' 0 8])
      (onReg := narrowReg s) with ⟨c, -, e⟩ | ⟨r, -, e⟩ | ⟨i, -, e⟩ | ⟨i, hd, e⟩ <;>
      rw [e] at h <;> cases h <;> first | exact .wr8Error _ _ _ _ | exact .wr8 _ _ _ _ hd
  | wr16 addr data =>
    obtain ⟨-, h⟩ := refuseWide_next h
    rcases busWrite_cases (n := 2) (addr := addr) (s := s) (bs := bytesBe16 (data.extractLsb' 0 16))
      (onReg := narrowReg s) with ⟨c, -, e⟩ | ⟨r, -, e⟩ | ⟨i, -, e⟩ | ⟨i, hd, e⟩ <;>
      rw [e] at h <;> cases h <;> first | exact .wr16Error _ _ _ _ | exact .wr16 _ _ _ _ hd
  | wr32 addr data =>
    change execWr32 addr data s = _ at h
    unfold execWr32 at h
    rcases busWrite_cases (n := 4) (addr := addr) (s := s) (bs := bytesBe32 data)
      (onReg := writeReg data s) with ⟨c, -, e⟩ | ⟨r, hd, e⟩ | ⟨i, -, e⟩ | ⟨i, hd, e⟩ <;> rw [e] at h
    · cases h; exact .wr32Error _ _ _ _
    · exact writeReg_effect (decodeAddr_ok (by decide) hd).2.2 h
    · cases h; exact .wr32Error _ _ _ _
    · cases h; exact .wr32 _ _ _ _ hd

/-- What one event of the host can do. -/
inductive EventEffect : HostEvent → State → State → Prop
  | reset (s) : EventEffect .reset s s.applyReset
  | badCode (r s) : decodeRequest r = .error .badCode → EventEffect (.request r) s (s.raiseBusError .badCode)
  | run (r i s t) : decodeRequest r = .ok i → Effect i s t → EventEffect (.request r) s t

/-- R9: a step idles, or takes the host's next event. -/
theorem step_effect {s t : State} (h : step s = .next t) :
    (s.pending = [] ∧ t = s) ∨
      ∃ e rest, s.pending = e :: rest ∧ EventEffect e (s.takeEvent rest) t := by
  unfold step runNext at h
  split at h
  · next hp => cases h; exact .inl ⟨hp, rfl⟩
  · next e rest hp =>
    refine .inr ⟨e, rest, hp, ?_⟩
    cases e with
    | reset => cases h; exact .reset _
    | request r =>
      simp only [runEvent, runRequest] at h
      split at h
      · next hd => cases h; exact .badCode _ _ hd
      · cases h
      · next i hd => exact .run _ i _ _ hd (exec_effect h)

end Sys2Proof.Machine
end

