-- ==== Sys2Proof/Laws/Access.lean ====
section
/-! SUPPORT. The address decode of R56 against the mapped windows of R51 to R54, and the receive ranges an access
reads. -/

namespace Sys2Proof.Machine

/-- R56: everything the address decode can answer, for the three widths: the bus error of the access, else the one
window that holds it. -/
theorem decodeAddr_spec {n : Nat} (hn : n = 1 ∨ n = 2 ∨ n = 4) (addr : Word) (cap : Half) :
    (∀ c, accessError n addr.toNat cap = some c → decodeAddr n addr cap = .error c) ∧
    (accessError n addr.toNat cap = none →
      (∃ r, decodeAddr n addr cap = .ok (.reg r) ∧ n = 4 ∧ addr.toNat = r.offset) ∨
      (decodeAddr n addr cap = .ok (.tx (addr.toNat - 0x1000)) ∧ 0x1000 ≤ addr.toNat ∧ addr.toNat + n ≤ 0x1040) ∨
      (decodeAddr n addr cap = .ok (.rx (addr.toNat - 0x10000)) ∧ 0x10000 ≤ addr.toNat ∧ addr.toNat + n ≤ 0x10000 + cap.toNat)) := by
  have hcap := cap.isLt
  unfold accessError decodeAddr
  simp only [Config.regLast, Config.txBase, Config.txLen, Config.rxBase]
  generalize addr.toNat = a at *
  by_cases h0 : a % n = 0
  · have h0' : ¬ (a % n ≠ 0) := by simpa using h0
    rw [if_neg h0', if_neg h0']
    by_cases hr : a + n - 1 ≤ 91
    · rw [if_pos hr]
      by_cases h4 : n = 4
      · subst h4
        obtain ⟨r, hr2⟩ := Reg.atOffset_aligned h0 (by omega)
        rw [if_neg (show ¬ ((4:Nat) ≠ 4 ∧ inRegWindow a) by simp), if_neg (show ¬ ((4:Nat) ≠ 4) by simp),
          if_pos (show ∀ k < 4, byteMapped cap (a + k) by intro k hk; left; simp only [inRegWindow]; omega), hr2]
        refine ⟨by simp, fun _ => .inl ⟨r, by simp, rfl, ?_⟩⟩
        exact Reg.offset_of_atOffset hr2
      · rw [if_pos (show n ≠ 4 ∧ inRegWindow a from ⟨h4, by simp only [inRegWindow]; omega⟩), if_pos h4]
        simp
    · rw [if_neg hr, if_neg (show ¬ (n ≠ 4 ∧ inRegWindow a) by simp only [inRegWindow]; rcases hn with rfl | rfl | rfl <;> omega)]
      by_cases ht : 0x1000 ≤ a ∧ a + n - 1 ≤ 4096 + 64 - 1
      · rw [if_pos ht, if_pos (show ∀ k < n, byteMapped cap (a + k) by intro k hk; right; left; simp only [inTxWindow]; omega)]
        refine ⟨by simp, fun _ => .inr (.inl ⟨by simp, ?_, ?_⟩)⟩ <;> omega
      · rw [if_neg ht]
        by_cases hx : 0x10000 ≤ a ∧ a + n - 1 ≤ 65536 + cap.toNat - 1
        · rw [if_pos hx, if_pos (show ∀ k < n, byteMapped cap (a + k) by intro k hk; right; right; simp only [inRxWindow]; omega)]
          refine ⟨by simp, fun _ => .inr (.inr ⟨by simp, ?_, ?_⟩)⟩ <;> rcases hn with rfl | rfl | rfl <;> omega
        · rw [if_neg hx, if_neg (c := ∀ k < n, byteMapped cap (a + k))]
          · simp
          · intro h
            have p := h 0 (by omega)
            have q := h (n - 1) (by omega)
            simp only [byteMapped, inRegWindow, inTxWindow, inRxWindow] at p q
            rcases hn with rfl | rfl | rfl <;> omega
  · have h0' : a % n ≠ 0 := h0
    rw [if_pos h0', if_pos h0']
    simp

/-- R41: a written range reads as its bytes. -/
theorem rxRange_of_holdsAt (s : State) (a n : Nat) (bs : List Byte) (h1 : 0x10000 ≤ a) (hl : bs.length = n) (h : holdsAt s.mem a bs) :
    rxRange s.mem (a - 0x10000) n = .ok bs := by
  rw [rxRange_ok]
  refine ⟨hl, fun k hk => ?_⟩
  rw [← h k (by omega), show Config.rxBase + (a - 65536 + k) = a + k by simp only [Config.rxBase]; omega]

/-- R207: a range whose first unwritten byte is the `k`-th faults there. -/
theorem rxRange_of_first_unwritten (s : State) (a n k : Nat) (h1 : 0x10000 ≤ a) (hk : k < n) (h : Memory.read s.mem (a + k) = none)
    (hj : ∀ j < k, Memory.read s.mem (a + j) ≠ none) :
    rxRange s.mem (a - 0x10000) n = .error (.unwritten (a + k - 0x10000)) := by
  rw [rxRange_error]
  refine ⟨k, hk, by rw [show a - 65536 + k = a + k - 65536 by omega], ?_, fun j hj' => ?_⟩
  · rw [← h, show Config.rxBase + (a - 65536 + k) = a + k by simp only [Config.rxBase]; omega]
  · rw [show Config.rxBase + (a - 65536 + j) = a + j by simp only [Config.rxBase]; omega]; exact hj j hj'

end Sys2Proof.Machine
end

