-- ==== Sys2Proof/Laws/Faults.lean ====
section
/-! SUPPORT. Every way an instruction can stop: the model fault of R207, which names a byte of `RX` not written, and the
refusal of R180, of a write whose data does not fit. -/

namespace Sys2Proof.Machine

/-- A fault of a receive range names an unwritten byte in it. -/
theorem rxRange_fault {m : Memory} {i n : Nat} {f : Fault} (h : rxRange m i n = .error f) :
    ∃ k, f = .unwritten k ∧ i ≤ k ∧ k < i + n ∧ Memory.read m (Config.rxBase + k) = none := by
  obtain ⟨k, hk, rfl, hn, -⟩ := rxRange_error.1 h
  exact ⟨i + k, rfl, by omega, by omega, hn⟩

theorem rxByte_fault {m : Memory} {i : Nat} {f : Fault} (h : rxByte m i = .error f) :
    f = .unwritten i ∧ Memory.read m (Config.rxBase + i) = none := by
  unfold rxByte at h
  split at h
  · cases h
  · next hn => cases h; exact ⟨rfl, hn⟩

/-- R207: what the fault of a command or of a read says. -/
def FaultNames (s : State) (f : Fault) : Prop :=
  ∃ k, f = .unwritten k ∧ k < s.rxcap.toNat ∧ Memory.read s.mem (Config.rxBase + k) = none

theorem execCksum_fault {len : Half} {s : State} {f : Fault} (h : execCksum len s = .fault f) : FaultNames s f := by
  unfold execCksum at h
  split at h
  · cases h
  · next hl =>
    split at h
    · next g hg =>
      cases h
      obtain ⟨k, rfl, -, hk, hn⟩ := rxRange_fault hg
      exact ⟨k, rfl, by omega, hn⟩
    · cases h

theorem execParse_fault {len : Half} {s : State} {f : Fault} (h : execParse len s = .fault f) : FaultNames s f := by
  unfold execParse at h
  split at h; · cases h
  split at h; · cases h
  next hl =>
  split at h; · cases h
  split at h; · cases h
  next h28 =>
  simp only [Config.minReplyLen] at h28
  split at h
  · next g hg =>
    cases h
    unfold readReply at hg
    split at hg
    · next g0 h0 => cases hg; obtain ⟨rfl, hn⟩ := rxByte_fault h0; exact ⟨0, rfl, by omega, hn⟩
    · split at hg
      · next g8 h8 => cases hg; obtain ⟨rfl, hn⟩ := rxByte_fault h8; exact ⟨8, rfl, by omega, hn⟩
      · split at hg
        · next gr hr =>
          cases hg
          obtain ⟨k, rfl, -, hk, hn⟩ := rxRange_fault hr
          simp only [Config.ipHdrLen] at hk
          exact ⟨k, rfl, by omega, hn⟩
        · cases hg
  · cases h

theorem execCommand_fault {i : Instr} (hi : i.isCommand = true) {s : State} {f : Fault} (h : exec i s = .fault f) :
    FaultNames s f := by
  cases i with
  | nop => cases h
  | session id => cases h
  | build seq =>
    change execBuild seq s = _ at h
    unfold execBuild at h
    split at h; · cases h
    split at h <;> cases h
  | parse len => exact execParse_fault h
  | cksum len => exact execCksum_fault h
  | cktx => cases h
  | endSession => cases h
  | rd8 _ => cases hi
  | rd16 _ => cases hi
  | rd32 _ => cases hi
  | wr8 _ _ => cases hi
  | wr16 _ _ => cases hi
  | wr32 _ _ => cases hi

theorem busRead_fault {n : Nat} (hn : 0 < n) {addr : Word} {s : State} {pack : List Byte → Response}
    {onReg : Reg → Outcome} (hr : ∀ r f, onReg r ≠ .fault f) {f : Fault} (h : busRead n addr s pack onReg = .fault f) : FaultNames s f := by
  rcases busRead_cases (n := n) (addr := addr) (s := s) (pack := pack) (onReg := onReg) with
    ⟨c, -, e⟩ | ⟨r, -, e⟩ | ⟨i, -, e⟩ | ⟨i, bs, -, -, e⟩ | ⟨i, g, hd, hg, e⟩ <;> rw [e] at h
  · cases h
  · exact absurd h (hr r f)
  · cases h
  · cases h
  · cases h
    obtain ⟨k, rfl, -, hk, hn'⟩ := rxRange_fault hg
    obtain ⟨-, -, hw⟩ := decodeAddr_ok hn hd
    exact ⟨k, rfl, by omega, hn'⟩

theorem busWrite_fault {n : Nat} {addr : Word} {s : State} {bs : List Byte} {onReg : Reg → Outcome}
    {f : Fault} (h : busWrite n addr s bs onReg = .fault f) : ∃ r, onReg r = .fault f := by
  rcases busWrite_cases (n := n) (addr := addr) (s := s) (bs := bs) (onReg := onReg) with
    ⟨c, -, e⟩ | ⟨r, -, e⟩ | ⟨i, -, e⟩ | ⟨i, -, e⟩ <;> rw [e] at h
  · cases h
  · exact ⟨r, h⟩
  · cases h
  · cases h

theorem refuseWide_fault {n : Nat} {data : Word} {o : Outcome} {f : Fault}
    (h : refuseWide n data o = .fault f) : o = .fault f := by
  unfold refuseWide at h
  split at h
  · exact h
  · cases h

theorem writeReg_fault {data : Word} {s : State} {r : Reg} {f : Fault} (h : writeReg data s r = .fault f) :
    FaultNames s f := by
  cases r with
  | cmd =>
    change answerDone (execCommandWord data (s.storeCmd data)) = _ at h
    cases ho : execCommandWord data (s.storeCmd data) with
    | next t => rw [ho] at h; cases h
    | refused r => rw [ho] at h; cases h
    | fault g =>
      rw [ho] at h; cases h
      unfold execCommandWord at ho
      split at ho
      · cases ho
      · next c hc =>
        have hcmd := decodeCommand_isCommand hc
        rw [runCommand_eq_exec hcmd] at ho
        exact execCommand_fault (s := s.storeCmd data) hcmd ho
  | _ => cases h

/-- R207: every fault of every instruction names a byte of `RX` that is not written. -/
theorem exec_fault {i : Instr} {s : State} {f : Fault} (h : exec i s = .fault f) : FaultNames s f := by
  cases i with
  | rd8 addr =>
    change execRd8 addr s = _ at h
    unfold execRd8 at h
    exact busRead_fault (by decide) (fun _ _ h => by cases h) h
  | rd16 addr =>
    change execRd16 addr s = _ at h
    unfold execRd16 at h
    exact busRead_fault (by decide) (fun _ _ h => by cases h) h
  | rd32 addr =>
    change execRd32 addr s = _ at h
    unfold execRd32 at h
    exact busRead_fault (by decide) (fun _ _ h => by cases h) h
  | wr8 addr data => obtain ⟨r, hr⟩ := busWrite_fault (refuseWide_fault h); cases hr
  | wr16 addr data => obtain ⟨r, hr⟩ := busWrite_fault (refuseWide_fault h); cases hr
  | wr32 addr data => obtain ⟨r, hr⟩ := busWrite_fault h; exact writeReg_fault hr
  | _ => exact execCommand_fault rfl h

/-- R201: a command never refuses. -/
theorem execCommand_not_refused {i : Instr} (hi : i.isCommand = true) (s : State) (r : Refusal) :
    exec i s ≠ .refused r := by
  intro h
  cases i with
  | nop => cases h
  | session id => cases h
  | build seq =>
    change execBuild seq s = _ at h
    unfold execBuild at h
    split at h; · cases h
    split at h <;> cases h
  | parse len =>
    change execParse len s = _ at h
    unfold execParse at h
    split at h; · cases h
    split at h; · cases h
    split at h; · cases h
    split at h; · cases h
    split at h <;> cases h
  | cksum len =>
    change execCksum len s = _ at h
    unfold execCksum at h
    split at h; · cases h
    split at h <;> cases h
  | cktx => cases h
  | endSession => cases h
  | rd8 _ => cases hi
  | rd16 _ => cases hi
  | rd32 _ => cases hi
  | wr8 _ _ => cases hi
  | wr16 _ _ => cases hi
  | wr32 _ _ => cases hi

/-- A write stops on nothing but its register. -/
theorem busWrite_refused {n : Nat} {addr : Word} {s : State} {bs : List Byte} {onReg : Reg → Outcome} {r : Refusal}
    (h : busWrite n addr s bs onReg = .refused r) : ∃ reg, onReg reg = .refused r := by
  rcases busWrite_cases (n := n) (addr := addr) (s := s) (bs := bs) (onReg := onReg) with
    ⟨c, -, e⟩ | ⟨reg, -, e⟩ | ⟨i, -, e⟩ | ⟨i, -, e⟩ <;> rw [e] at h
  · cases h
  · exact ⟨reg, h⟩
  · cases h
  · cases h

theorem busRead_not_refused {n : Nat} {addr : Word} {s : State} {pack : List Byte → Response} {onReg : Reg → Outcome}
    {r : Refusal} (h : busRead n addr s pack onReg = .refused r) : ∃ reg, onReg reg = .refused r := by
  rcases busRead_cases (n := n) (addr := addr) (s := s) (pack := pack) (onReg := onReg) with
    ⟨c, -, e⟩ | ⟨reg, -, e⟩ | ⟨i, -, e⟩ | ⟨i, bs, -, -, e⟩ | ⟨i, g, -, -, e⟩ <;> rw [e] at h
  · cases h
  · exact ⟨reg, h⟩
  · cases h
  · cases h
  · cases h

theorem writeReg_not_refused {data : Word} {s : State} {reg : Reg} {r : Refusal} :
    writeReg data s reg ≠ .refused r := by
  intro h
  cases reg with
  | cmd =>
    change answerDone (execCommandWord data (s.storeCmd data)) = _ at h
    cases ho : execCommandWord data (s.storeCmd data) with
    | next t => rw [ho] at h; cases h
    | fault g => rw [ho] at h; cases h
    | refused q =>
      unfold execCommandWord at ho
      split at ho
      · cases ho
      · next c hc =>
        have hcmd := decodeCommand_isCommand hc
        rw [runCommand_eq_exec hcmd] at ho
        exact execCommand_not_refused hcmd _ _ ho
  | _ => cases h

/-- R180: the only refusal is of an ill-formed write. -/
theorem exec_not_refused {i : Instr} (hi : i.wellFormed = true) (s : State) (r : Refusal) : exec i s ≠ .refused r := by
  intro h
  cases i with
  | rd8 addr =>
    change execRd8 addr s = _ at h
    unfold execRd8 at h
    obtain ⟨reg, hr⟩ := busRead_not_refused h
    cases hr
  | rd16 addr =>
    change execRd16 addr s = _ at h
    unfold execRd16 at h
    obtain ⟨reg, hr⟩ := busRead_not_refused h
    cases hr
  | rd32 addr =>
    change execRd32 addr s = _ at h
    unfold execRd32 at h
    obtain ⟨reg, hr⟩ := busRead_not_refused h
    cases hr
  | wr8 addr data =>
    change refuseWide 1 data _ = _ at h
    rw [refuseWide, if_pos (show dataFits 1 data = true from hi)] at h
    obtain ⟨reg, hr⟩ := busWrite_refused h
    cases hr
  | wr16 addr data =>
    change refuseWide 2 data _ = _ at h
    rw [refuseWide, if_pos (show dataFits 2 data = true from hi)] at h
    obtain ⟨reg, hr⟩ := busWrite_refused h
    cases hr
  | wr32 addr data =>
    obtain ⟨reg, hr⟩ := busWrite_refused h
    exact writeReg_not_refused hr
  | _ => exact execCommand_not_refused rfl s r h

end Sys2Proof.Machine
end

