-- ==== Sys2Proof/Laws/Packet.lean ====
section
/-! SUPPORT. The bytes and the word sum of an echo request (R120, R121), what `BUILD` leaves in `TX` (R122), and the word
sum of a concatenation. -/

namespace Sys2Proof.Machine

/-- R100: the sum is over the words of the sequence. -/
theorem wordSum_eq_exactSum (s : List Byte) : wordSum s = exactSum s := by
  induction s using wordSum.induct with
  | case1 => rfl
  | case2 b => simp [wordSum, exactSum, wordsOf, be16]
  | case3 x y rest ih => simp only [wordSum, exactSum, wordsOf, List.map_cons, List.sum_cons] at ih ⊢; rw [ih]; rfl

/-- R112: the words of a concatenation, the first length even. -/
theorem wordSum_append (a b : List Byte) (h : a.length % 2 = 0) : wordSum (a ++ b) = wordSum a + wordSum b := by
  induction a using wordSum.induct with
  | case1 => simp [wordSum]
  | case2 x => simp at h
  | case3 x y rest ih =>
    simp only [List.length_cons] at h
    simp only [List.cons_append, wordSum, ih (by omega)]; omega

@[simp] theorem echoRequest_length (id seq : Half) (sec usec : Word) : (echoRequest id seq sec usec).length = 64 := by
  simp [echoRequest, packetWith, bytesBe16, bytesBe32, filler]

/-- R120, R122: the packet is the layout's bytes, the checksum that of the same bytes with the field 0. -/
theorem echoRequest_eq_requestBytes (id seq : Half) (sec usec : Word) :
    echoRequest id seq sec usec = requestBytes (checksum (requestBytes 0 id seq sec usec)) id seq sec usec := rfl

/-- R123: the exact sum of a packet's words. -/
theorem wordSum_packetWith (c id seq : Half) (sec usec : Word) : wordSum (packetWith c id seq sec usec) =
      0x2F300 + c.toNat + id.toNat + seq.toNat + (sec.extractLsb' 16 16).toNat + (sec.extractLsb' 0 16).toNat +
        (usec.extractLsb' 16 16).toNat + (usec.extractLsb' 0 16).toNat := by
  have hw : ∀ v : Word, (be16 (v.extractLsb' 24 8) (v.extractLsb' 16 8)).toNat = (v.extractLsb' 16 16).toNat ∧
      (be16 (v.extractLsb' 8 8) (v.extractLsb' 0 8)).toNat = (v.extractLsb' 0 16).toNat := by
    intro v
    rw [be16_toNat, be16_toNat]
    simp only [BitVec.extractLsb'_toNat, Nat.shiftRight_eq_div_pow]
    omega
  have hf : wordSum filler = 0x2EB00 := by decide
  simp only [packetWith, bytesBe16, bytesBe32, List.cons_append, List.nil_append, wordSum_cons_cons, be16_bytesBe16, hw, hf]
  rw [show (be16 8 0).toNat = 0x800 by decide]
  omega

/-- R122: in a session, with a legal time, `BUILD` latches the packet. -/
theorem execBuild_completes {s : State} {seq : Half} (h : s.sact = true) (h2 : s.timeUsec.toNat < 1000000) :
    execBuild seq s = .next (s.latchPacket seq).completeCmd := by
  have : ¬ s.timeUsec.toNat ≥ Config.usecPerSec := by simp only [Config.usecPerSec]; omega
  simp [execBuild, h, if_neg this]

/-- R122: what `TX` holds after it. -/
theorem txRange_latchPacket {s : State} {seq : Half} : txRange ((s.latchPacket seq).completeCmd).mem 0 64 =
      echoRequest s.ident seq s.timeSec s.timeUsec := by
  have := txRange_writeBytes s.mem (echoRequest s.ident seq s.timeSec s.timeUsec)
  rw [echoRequest_length] at this
  rw [← this]; simp

end Sys2Proof.Machine
end

