-- ==== Sys2Proof/Laws/PerInstr.lean ====
section
/-! SUPPORT. What is said of every instruction as syntax: its encoding has the bits that its row of
spec/opcode_table.json fixes (R71 to R74). -/

namespace Sys2Proof.Laws

/-- The bits of an encoded form that the table numbers: a command word, or a transaction code in the low 4 bits. -/
def tableBits : Encoded → Word
  | .command w => w
  | .request r => r.tc.setWidth 32

/-- The row of an instruction: the mask of the bits the table fixes, and their values. -/
def tableRow : Instr → Word × Word
  | .nop => (0xFFFFFFFF, 0x00000000)
  | .session _ => (0xFFFF0000, 0x01000000)
  | .build _ => (0xFFFF0000, 0x02000000)
  | .parse _ => (0xFFFF0000, 0x03000000)
  | .cksum _ => (0xFFFF0000, 0x04000000)
  | .cktx => (0xFFFFFFFF, 0x05000000)
  | .endSession => (0xFFFFFFFF, 0x06000000)
  | .rd8 _ => (0b1111, 0b0000)
  | .rd16 _ => (0b1111, 0b0001)
  | .rd32 _ => (0b1111, 0b0010)
  | .wr8 _ _ => (0b1111, 0b1000)
  | .wr16 _ _ => (0b1111, 0b1001)
  | .wr32 _ _ => (0b1111, 0b1010)

namespace EncodeMatchesTable

/-- The encoding of an instruction has the bits its row fixes. -/
def Statement (i : Instr) : Prop := tableBits (encode i) &&& (tableRow i).1 = (tableRow i).2

/-- The upper half of a command word is its opcode and `RSV = 0`, whatever the operand (R71). -/
theorem upperHalf_commandWord (op : BitVec 8) (imm : Half) : commandWord op imm &&& 0xFFFF0000 = commandWord op 0 := by
  apply BitVec.eq_of_getLsbD_eq
  intro i hi
  have hmask : (0xFFFF0000 : Word).getLsbD i = decide (16 ≤ i) := by
    interval_cases i <;> rfl
  simp only [commandWord, BitVec.getLsbD_and, BitVec.getLsbD_append, hmask]
  by_cases h : i < 16 <;> simp [h, show 16 ≤ i ↔ ¬ i < 16 by omega]

/-- A transaction code is all of its four bits (R72). -/
theorem code (tc : BitVec 4) : tc.setWidth 32 &&& (0b1111 : Word) = tc.setWidth 32 := by
  apply BitVec.eq_of_getLsbD_eq
  intro i hi
  have hmask : (0b1111 : Word).getLsbD i = decide (i < 4) := by
    interval_cases i <;> rfl
  simp only [BitVec.getLsbD_and, BitVec.getLsbD_setWidth, hmask]
  by_cases h : i < 4
  · simp [h]
  · simp [h, BitVec.getLsbD_of_ge tc i (by omega)]

theorem nop : Statement .nop := by unfold Statement; decide
theorem session (id : Half) : Statement (.session id) := upperHalf_commandWord 0x01 id
theorem build (seq : Half) : Statement (.build seq) := upperHalf_commandWord 0x02 seq
theorem parse (len : Half) : Statement (.parse len) := upperHalf_commandWord 0x03 len
theorem cksum (len : Half) : Statement (.cksum len) := upperHalf_commandWord 0x04 len
theorem cktx : Statement .cktx := by unfold Statement; decide
theorem endSession : Statement .endSession := by unfold Statement; decide
theorem rd8 (addr : Word) : Statement (.rd8 addr) := code 0b0000
theorem rd16 (addr : Word) : Statement (.rd16 addr) := code 0b0001
theorem rd32 (addr : Word) : Statement (.rd32 addr) := code 0b0010
theorem wr8 (addr data : Word) : Statement (.wr8 addr data) := code 0b1000
theorem wr16 (addr data : Word) : Statement (.wr16 addr data) := code 0b1001
theorem wr32 (addr data : Word) : Statement (.wr32 addr data) := code 0b1010

end EncodeMatchesTable

end Sys2Proof.Laws
end

