-- ==== Sys2Proof/Tests/Slice0.lean ====
section
/-! SUPPORT. The model's own tests. Every expected value is the spec's: a vector of spec/95_test_vectors.md, named by
its id, an example of a rule, or a word written out from R71 to R74. Then, for every statement with hypotheses, a state
and operands that meet them (`witness_…`). -/

namespace Sys2Proof.Tests

open Sys2Proof Sys2Proof.Machine

/-! ## Helpers -/

/-- The outcome is a next state of which `p` holds. -/
def nextWith (o : Outcome) (p : State → Bool) : Bool :=
  match o with
  | .next t => p t
  | .fault _ => false
  | .refused _ => false

/-- The outcome is a next state. -/
def completes (o : Outcome) : Bool := nextWith o fun _ => true

/-- The outcome is this fault. -/
def faultsWith (o : Outcome) (f : Fault) : Bool :=
  match o with
  | .next _ => false
  | .fault g => g == f
  | .refused _ => false

/-- The outcome is the refusal of data that does not fit. -/
def refusesWide (o : Outcome) : Bool :=
  match o with
  | .next _ => false
  | .fault _ => false
  | .refused r => r == .dataTooWide

/-- The last answer to the host. -/
def answer (s : State) : Option Response := s.responses.getLast?

/-- The next state of an outcome, `s` where there is none. -/
def stateAfter (s : State) (o : Outcome) : State :=
  match o with
  | .next t => t
  | .fault _ => s
  | .refused _ => s

/-- After reset with a smaller receive buffer. -/
def small (cap : Half) : State := State.powerOn cap

/-- `RX[0..)` written with these bytes. -/
def received (bs : List Byte) (s : State) : State := { s with mem := Memory.writeBytes s.mem 0x10000 bs }

/-- A session with identifier `id`, the time operand set. -/
def session (id : Half) (sec usec : Word) : State :=
  { State.reset with sact := true, ident := id, timeSec := sec, timeUsec := usec }

/-- Vector B-1: session 0x1234, `BUILD 0` sent at (0, 0). -/
def builtB1 : State := stateAfter State.reset (exec (.build 0) (session 0x1234 0 0))

/-- The state in which the host parses: session 1, packet `seq` sent at `(ss, su)`, time operand `(rs, ru)`. -/
def sent (seq : Half) (ss su rs ru : Word) : State :=
  { session 1 rs ru with txValid := true, seqLast := seq, tsSecLast := ss, tsUsecLast := su }

/-- The 20-byte IPv4 header of the reply `P1`. -/
def p1Header : List Byte :=
  [0x45, 0x00, 0x00, 0x54, 0x00, 0x00, 0x00, 0x00, 0x40, 0x01, 0xA9, 0xEF, 0x08, 0x08, 0x08, 0x08,
    0xC0, 0xA8, 0x00, 0x02]

/-- The ICMP message of the reply `P1`. -/
def p1Message : List Byte :=
  [0x00, 0x00, 0xDC, 0x64, 0x00, 0x01, 0x00, 0x01, 0x65, 0x53, 0xF1, 0x00, 0x00, 0x01, 0xE2, 0x40] ++
    (List.range 48).map fun i => BitVec.ofNat 8 (8 + i)

/-- The 24-byte IPv4 header of vector P-9 (IHL 6). -/
def p9Header : List Byte :=
  [0x46, 0x00, 0x00, 0x58, 0x00, 0x00, 0x00, 0x00, 0x40, 0x01, 0xA6, 0xE9, 0x08, 0x08, 0x08, 0x08,
    0xC0, 0xA8, 0x00, 0x02, 0x01, 0x01, 0x01, 0x01]

/-- The bytes of vector K-1. -/
def k1Bytes : List Byte := [0x00, 0x01, 0xF2, 0x03, 0xF4, 0xF5, 0xF6, 0xF7]

/-! ## Well-formedness (R180) -/

theorem test_wellFormed_refuses_wide_byte : (Instr.wr8 0x10000 0x100).wellFormed = false := by decide
theorem test_wellFormed_refuses_wide_half : (Instr.wr16 0x10000 0x10000).wellFormed = false := by decide
theorem test_wellFormed_admits_full_byte : (Instr.wr8 0x10000 0xFF).wellFormed = true := by decide
theorem test_wellFormed_admits_full_half : (Instr.wr16 0x10000 0xFFFF).wellFormed = true := by decide

/-! ## Decoding: words written out from R71 and R73, codes from R72 and R74 -/

theorem test_decode_nop : decodeCommand 0b00000000_00000000_0000000000000000 = .ok .nop := by decide
theorem test_decode_session :
    decodeCommand 0b00000001_00000000_1000000000000001 = .ok (.session 0x8001) := by decide
theorem test_decode_build :
    decodeCommand 0b00000010_00000000_0000000000000101 = .ok (.build 5) := by decide
theorem test_decode_parse :
    decodeCommand 0b00000011_00000000_0000000001010100 = .ok (.parse 84) := by decide
theorem test_decode_cksum :
    decodeCommand 0b00000100_00000000_1111111111111111 = .ok (.cksum 65535) := by decide
theorem test_decode_cktx : decodeCommand 0b00000101_00000000_0000000000000000 = .ok .cktx := by decide
theorem test_decode_end : decodeCommand 0b00000110_00000000_0000000000000000 = .ok .endSession := by decide
theorem test_decode_rd8 : decodeRequest ⟨0b0_0_00, 0x1003, 0⟩ = .ok (.rd8 0x1003) := by decide
theorem test_decode_rd16 : decodeRequest ⟨0b0_0_01, 0x1002, 0⟩ = .ok (.rd16 0x1002) := by decide
theorem test_decode_rd32 : decodeRequest ⟨0b0_0_10, 0x58, 0⟩ = .ok (.rd32 0x58) := by decide
theorem test_decode_wr8 : decodeRequest ⟨0b1_0_00, 0x10000, 0x45⟩ = .ok (.wr8 0x10000 0x45) := by decide
theorem test_decode_wr16 : decodeRequest ⟨0b1_0_01, 0x10002, 0x54⟩ = .ok (.wr16 0x10002 0x54) := by decide
theorem test_decode_wr32 : decodeRequest ⟨0b1_0_10, 0xC, 0xF4240⟩ = .ok (.wr32 0xC 0xF4240) := by decide

/-- Vectors S-8, S-9, S-10, S-11, S-12, S-13, K-8: illegal words. -/
theorem test_decode_rejects_illegal_words :
    decodeCommand 0x07000000 = .error .unknownOpcode ∧ decodeCommand 0xFF000000 = .error .unknownOpcode ∧
    decodeCommand 0x00010000 = .error .reservedField ∧ decodeCommand 0x00000001 = .error .strayOperand ∧
    decodeCommand 0x0600FFFF = .error .strayOperand ∧ decodeCommand 0x02800001 = .error .reservedField ∧
    decodeCommand 0x05000001 = .error .strayOperand := by decide

/-- R74, last row: every reserved code. -/
theorem test_decode_rejects_reserved_codes :
    ∀ tc ∈ [0b0011, 0b1011, 0b0100, 0b0101, 0b0110, 0b0111, 0b1100, 0b1101, 0b1110, 0b1111],
      decodeRequest ⟨tc, 0, 0⟩ = .error .badCode := by decide

/-- R73, R74: the encoder gives the tables' words. -/
theorem test_encode_command_and_transaction :
    encode (.build 0x0102) = .command 0x02000102 ∧ encode (.wr8 0x10000 0x45) = .request ⟨0b1000, 0x10000, 0x45⟩ := by
  decide

/-! ## Stepping a placed row -/

/-- A transaction row: code 0b1010 with address and data 0 is the `WR32` of a `NOP` word to `CMD`. -/
theorem test_step_placed_transaction_row :
    nextWith (step (State.reset.withFetchWord 8 0b1010)) (fun t => answer t = some .done && t.cmd = 0) = true := by
  decide

/-- Vector S-1 through the step: the word of `SESSION 0x04D2` placed as a command row. -/
theorem test_step_placed_command_row :
    nextWith (step (State.reset.withFetchWord 32 0x010004D2))
      (fun t => t.readReg .status = 0x100 && t.readReg .ident = 0x4D2 && t.readReg .cmd = 0x010004D2) = true := by
  decide

/-! ## The checksum function -/

/-- Vectors C-9, C-10 (two folds), C-6 (odd length) and C-1 (no words). -/
theorem test_checksum_vectors :
    onesSum k1Bytes = 0xDDF2 ∧ checksum k1Bytes = 0x220D ∧
    onesSum [0xFF, 0xFF, 0xFF, 0xFF, 0x00, 0x01] = 0x0001 ∧
    onesSum [0x01, 0x02, 0x03] = 0x0402 ∧ checksum [] = 0xFFFF := by decide

/-- Vector C-19: a checksum spliced at an odd index does not verify. -/
theorem test_checksum_odd_index : checksum [0x12, 0x42, 0xCB, 0x34, 0xAB] = 0x7788 := by decide

/-! ## Commands, one step each -/

/-- Vector S-4, the second command: `NOP` clears `LASTERR` and leaves `ERRSEEN`. -/
theorem test_nop_clears_lasterr_only :
    nextWith (exec .nop { State.reset with lastErr := .estate, errSeen := true })
      (fun t => t.readReg .status = 0x10) = true := by decide

/-- Vector S-1. -/
theorem test_session_opens :
    nextWith (exec (.session 0x04D2) State.reset)
      (fun t => t.readReg .status = 0x100 && t.readReg .ident = 0x4D2) = true := by decide

/-- Vector S-6, the third command: the old packet is stale but stays in `TX`, the identifier is the new one. -/
theorem test_session_discards_packet :
    nextWith (exec (.session 2) builtB1)
      (fun t => t.readReg .status = 0x100 && t.readReg .ident = 2 && txByte t.mem 3 = 0xC8) = true := by decide +kernel

/-- Vector S-2, the second command. -/
theorem test_end_closes :
    nextWith (exec .endSession { State.reset with sact := true, ident := 1 })
      (fun t => t.readReg .status = 0 && t.readReg .ident = 1) = true := by decide

/-- Vector B-2: the first 16 bytes of `TX`, its last byte, and the latched send time. -/
theorem test_build_packet :
    nextWith (exec (.build 1) (session 1 1700000000 123456))
      (fun t =>
        txRange t.mem 0 16 =
          [0x08, 0x00, 0xD4, 0x64, 0x00, 0x01, 0x00, 0x01, 0x65, 0x53, 0xF1, 0x00, 0x00, 0x01, 0xE2, 0x40] &&
        txByte t.mem 63 = 0x37 && t.tsSecLast = 1700000000 && t.tsUsecLast = 123456 &&
        t.readReg .status = 0x300) = true := by decide +kernel

/-- Vector B-4: a computed checksum of 0x0000 is stored as 0x0000. -/
theorem test_build_zero_checksum :
    nextWith (exec (.build 0) (session 0x0CFD 0 0)) (fun t => txRange t.mem 2 4 = [0x00, 0x00, 0x0C, 0xFD]) = true := by
  decide +kernel

/-- Vector K-3: an odd length, `F6` the high half of the last word. -/
theorem test_cksum_odd_length :
    nextWith (exec (.cksum 7) (received k1Bytes State.reset))
      (fun t => t.readReg .ckSum = 0xDCFB && t.readReg .ckResult = 0x2304) = true := by decide

/-- Vector K-5: the first byte not written. -/
theorem test_cksum_unwritten :
    faultsWith (exec (.cksum 9) (received k1Bytes State.reset)) (.unwritten 8) = true := by decide

/-- Vector K-6. -/
theorem test_cktx_after_reset :
    nextWith (exec .cktx State.reset) (fun t => t.readReg .ckSum = 0 && t.readReg .ckResult = 0xFFFF) = true := by decide

/-- Vector K-7. -/
theorem test_cktx_of_built_packet :
    nextWith (exec .cktx builtB1) (fun t => t.readReg .ckSum = 0xFFFF && t.readReg .ckResult = 0) = true := by decide +kernel

/-- Vector P-11: the largest round-trip time, and every field of an unremarkable reply. -/
theorem test_parse_largest_rtt :
    nextWith (exec (.parse 84) (received (p1Header ++ p1Message) (sent 1 0 0 4294967295 999999)))
      (fun t => t.res = ⟨.ok, 64, 1, 64, 0xFFFFFFFF, 0x000F423F, 0, 0, 1, 1, ResFlags.clear, 5⟩) = true := by decide

/-- Vector P-9: a header with options moves nothing, and the flags say so (0x2F). -/
theorem test_parse_fixed_offset :
    nextWith (exec (.parse 88) (received (p9Header ++ p1Message) (sent 1 1700000000 123456 1700000000 150000)))
      (fun t => t.res = ⟨.ok, 68, 1, 64, 26544, 0, 1, 1, 0x0000, 0xDC64, ⟨true, true, true, true, false, true⟩, 6⟩ &&
        t.readReg .resFlags = 0x2F) = true := by decide

/-! ## Transactions, one step each -/

/-- Vector X-3. -/
theorem test_rd8_tx : nextWith (exec (.rd8 0x1003) builtB1) (fun t => answer t = some (.data8 0xC8)) = true := by decide +kernel

/-- Vector X-9. -/
theorem test_rd8_past_registers :
    nextWith (exec (.rd8 0x5C) State.reset) (fun t => answer t = some (.busError .unmapped)) = true := by decide

/-- Vector X-22. -/
theorem test_rd16_rx :
    nextWith (exec (.rd16 0x10002) (received [0x45, 0x00, 0x00, 0x54] State.reset))
      (fun t => answer t = some (.data16 0x0054)) = true := by decide

/-- Vector X-11. -/
theorem test_rd16_misaligned :
    nextWith (exec (.rd16 0x1) State.reset) (fun t => answer t = some (.busError .misaligned)) = true := by decide

/-- Vector X-6. -/
theorem test_rd32_tx :
    nextWith (exec (.rd32 0x103C) builtB1) (fun t => answer t = some (.data32 0x34353637)) = true := by decide +kernel

/-- Vector X-2. -/
theorem test_rd32_rxcap :
    nextWith (exec (.rd32 0x58) (small 30)) (fun t => answer t = some (.data32 0x1E)) = true := by decide

/-- R184's example. -/
theorem test_wr8_rx :
    nextWith (exec (.wr8 0x10000 0x45) State.reset) (fun t => t.mem = [(0x10000, 0x45)] && answer t = some .done) = true := by
  decide

/-- Vector X-13. -/
theorem test_wr8_tx :
    nextWith (exec (.wr8 0x1000 0x00) State.reset)
      (fun t => answer t = some (.busError .readOnly) && t.readReg .status = 0x20) = true := by decide

/-- R185's example. -/
theorem test_wr16_rx :
    nextWith (exec (.wr16 0x10002 0x0054) State.reset) (fun t => t.mem = [(0x10002, 0x00), (0x10003, 0x54)]) = true := by
  decide

/-- Vector X-14. -/
theorem test_wr16_misaligned :
    nextWith (exec (.wr16 0x1001 0) State.reset) (fun t => answer t = some (.busError .misaligned)) = true := by decide

/-- Vector X-27: the bus answers `Ok` to an illegal command, the word is stored, `LASTERR` is 1. -/
theorem test_wr32_illegal_command :
    nextWith (exec (.wr32 0 0x07000000) State.reset)
      (fun t => answer t = some .done && t.readReg .cmd = 0x07000000 && t.readReg .status = 0x11) = true := by decide

/-- R186's example. -/
theorem test_wr32_runs_command :
    nextWith (exec (.wr32 0 0x01001234) State.reset)
      (fun t => t.readReg .cmd = 0x01001234 && t.readReg .ident = 0x1234) = true := by decide

/-! ## Witnesses: a state and operands that meet the hypotheses of each statement, clause by clause -/

/-- A nonempty reply buffer of 28 bytes, all written: the shortest that is parsed. -/
def parsing (len : Half) (bs : List Byte) : Outcome :=
  exec (.parse len) (received bs (sent 1 1700000000 123456 1700000000 150000))

theorem nextWith_true {o : Outcome} {p : State → Bool} (h : nextWith o p = true) : ∃ t, o = .next t ∧ p t = true := by
  cases o with
  | next t => exact ⟨t, rfl, h⟩
  | fault f => cases h
  | refused r => cases h

theorem completes_iff {o : Outcome} : completes o = true ↔ ∃ t, o = .next t := by
  cases o with
  | next t => exact ⟨fun _ => ⟨t, rfl⟩, fun _ => rfl⟩
  | fault f => exact ⟨(nomatch ·), fun ⟨_, h⟩ => nomatch h⟩
  | refused r => exact ⟨(nomatch ·), fun ⟨_, h⟩ => nomatch h⟩

theorem witness_DecodeOfEncodeIsTheInstruction :
    (Instr.wr8 0xFFFFFFFF 0xFF).wellFormed = true ∧ (Instr.wr16 0xFFFFFFFF 0xFFFF).wellFormed = true ∧
    (Instr.build 0xFFFF).wellFormed = true := by decide

theorem witness_EncodeOfDecodeIsTheEncoding :
    decode (.command 0x0400FFFF) = .ok (.cksum 0xFFFF) ∧
    decode (.request ⟨0b1001, 0x10002, 0xFFFF⟩) = .ok (.wr16 0x10002 0xFFFF) ∧
    decode (.request ⟨0b0010, 0x58, 7⟩) = .ok (.rd32 0x58) := by decide

theorem witness_EveryCommandWordIsACommandOrIllegal :
    illegalWord 0x00010000 ∧ illegalWord 0x07000000 ∧ illegalWord 0x05000001 ∧ illegalWord 0x0600FFFF ∧
    ¬ illegalWord 0x06000000 ∧ ¬ illegalWord 0x0100FFFF := by decide

/-- A host that has asked for these transactions. -/
def asking (es : List HostEvent) (s : State) : State := { s with pending := es }

theorem witness_StepRunsTheDecodedTransaction :
    (asking [.request ⟨0b1000, 0x10000, 0xFF⟩, .reset] State.reset).pending =
      .request ⟨0b1000, 0x10000, 0xFF⟩ :: [.reset] ∧
    decodeRequest ⟨0b1000, 0x10000, 0xFF⟩ = .ok (.wr8 0x10000 0xFF) := by decide

theorem witness_CommandWriteStoresTheWordAndRunsTheCommand :
    decodeCommand 0x01000001 = .ok (.session 1) ∧
    completes (exec (.session 1) { State.reset with cmd := 0x01000001 }) = true ∧
    decodeCommand 0x04000001 = .ok (.cksum 1) ∧
    faultsWith (exec (.cksum 1) { State.reset with cmd := 0x04000001 }) (.unwritten 0) = true := by decide

theorem witness_PlacedRowRunsNext :
    decodeTableWord 8 0b1010 = some (.wr32 0 0) ∧ decodeTableWord 8 0b0000 = some (.rd8 0) ∧
    decodeTableWord 32 0x0200FFFF = some (.build 0xFFFF) ∧
    completes (exec (.build 0xFFFF) { State.reset with cmd := 0x0200FFFF }) = true := by decide

theorem witness_BusErrorIsTheFirstCauseAndChangesNothingElse :
    decodeRequest ⟨0b1110, 3, 0⟩ ≠ .error .dataTooWide ∧ firstBusError ⟨0b1110, 3, 0⟩ 65535 = some .badCode ∧
    firstBusError ⟨0b1001, 0x1001, 0xFFFF⟩ 65535 = some .misaligned ∧
    firstBusError ⟨0b0000, 0x5B, 0⟩ 65535 = some .size ∧
    firstBusError ⟨0b0000, 0x5C, 0⟩ 65535 = some .unmapped ∧
    firstBusError ⟨0b0010, 0x1001C, 0⟩ 30 = some .unmapped ∧
    firstBusError ⟨0b1010, 0x103C, 0⟩ 65535 = some .readOnly ∧
    firstBusError ⟨0b1010, 0x04, 0⟩ 65535 = some .readOnly ∧
    decodeRequest ⟨0b1010, 0x04, 0⟩ ≠ .error .dataTooWide := by decide

theorem witness_WriteWhoseDataDoesNotFitIsRefused :
    2 ^ 8 ≤ (0x100 : Word).toNat ∧ 2 ^ 16 ≤ (0x10000 : Word).toNat ∧
    (asking [.request ⟨0b1000, 0x10000, 0x100⟩] State.reset).pending = .request ⟨0b1000, 0x10000, 0x100⟩ :: [] ∧
    (asking [.request ⟨0b1001, 0x10000, 0x10000⟩] State.reset).pending =
      .request ⟨0b1001, 0x10000, 0x10000⟩ :: [] := by decide

/-- Each of the three outcomes that the statement allows is one that some state has. -/
theorem witness_StepAnswersNextStateOrUnwrittenFault :
    completes (step (asking [.request ⟨0b0010, 0x58, 0⟩] State.reset)) = true ∧
    faultsWith (step (asking [.request ⟨0b0000, 0x1FFFE, 0⟩] State.reset)) (.unwritten 65534) = true ∧
    refusesWide (step (asking [.request ⟨0b1000, 0x10000, 0x100⟩] State.reset)) = true := by decide

theorem witness_EveryTransactionIsAnsweredOnce :
    completes (step (asking [.request ⟨0b0010, 0x58, 0⟩, .reset] State.reset)) = true ∧
    completes (step (asking [.reset] builtB1)) = true := by decide +kernel

theorem witness_IdleStepKeepsAllState : builtB1.pending = [] := by decide +kernel

theorem witness_ResetStepSetsEverythingWhateverTheStateBefore :
    (asking [.reset, .request ⟨0b0000, 0, 0⟩] builtB1).pending = .reset :: [.request ⟨0b0000, 0, 0⟩] := by decide

/-- B-1 meets the invariant with `TXVALID = 1`, and steps. -/
theorem witness_EveryStepKeepsTheInvariant :
    (asking [.request ⟨0b1010, 0, 0x05000000⟩] builtB1).Inv ∧
    builtB1.txValid = true ∧ completes (step (asking [.request ⟨0b1010, 0, 0x05000000⟩] builtB1)) = true := by
  refine ⟨⟨?_, ?_, ?_, ?_, ?_, ?_, ?_, ?_⟩, ?_, ?_⟩
  · decide +kernel
  · decide +kernel
  · decide +kernel
  · decide +kernel
  · decide +kernel
  · decide +kernel
  · rfl
  · exact .inl ⟨rfl, rfl⟩
  · decide +kernel
  · decide +kernel

theorem witness_OnlyTheListedOperationsChangeARegister :
    nextWith (exec (.session 1) State.reset) (fun t => t.readReg .ident ≠ State.reset.readReg .ident) = true ∧
    nextWith (exec (.wr32 0x08 5) State.reset) (fun t => t.readReg .timeSec ≠ State.reset.readReg .timeSec) = true ∧
    nextWith (exec (.wr32 0 0x05000000) State.reset)
      (fun t => t.readReg .ckResult ≠ State.reset.readReg .ckResult) = true := by decide

theorem witness_StickyBitsAreClearedOnlyByReset :
    nextWith (step (asking [.request ⟨0b1010, 0, 0x07000000⟩] State.reset))
      (fun t => t.errSeen && t.lastErr ≠ .ok && t.lastErr ≠ State.reset.lastErr) = true ∧
    State.reset.errSeen = false ∧
    nextWith (step (asking [.request ⟨0b0000, 0, 0⟩] State.reset))
      (fun t => t.busErrSeen && t.responses = State.reset.responses ++ [.busError .size]) = true ∧
    State.reset.busErrSeen = false ∧
    nextWith (step (asking [.reset] { State.reset with errSeen := true, busErrSeen := true }))
      (fun t => !t.errSeen && !t.busErrSeen) = true := by decide

theorem witness_RxcapIsConstant : completes (step (asking [.reset] (small 28))) = true := by decide

theorem witness_BuffersChangeOnlyByHostWritesAndBuild :
    nextWith (exec (.build 0) (session 1 0 0))
      (fun t => Memory.read t.mem 0x1000 ≠ Memory.read State.reset.mem 0x1000) = true ∧
    nextWith (exec (.wr8 0x1FFFE 1) State.reset)
      (fun t => Memory.read t.mem 0x1FFFE ≠ Memory.read State.reset.mem 0x1FFFE) = true ∧
    nextWith (exec (.wr16 0x10000 1) State.reset)
      (fun t => Memory.read t.mem 0x10001 ≠ Memory.read State.reset.mem 0x10001) = true ∧
    nextWith (exec (.wr32 0x10000 1) State.reset)
      (fun t => Memory.read t.mem 0x10003 ≠ Memory.read State.reset.mem 0x10003) = true := by decide +kernel

theorem witness_ReadByteAnswersTheByte :
    accessError 1 (0x5B : Word).toNat (small 30).rxcap = some .size ∧
    accessError 1 (0x1040 : Word).toNat (small 30).rxcap = some .unmapped ∧
    accessError 1 (0x1001E : Word).toNat (small 30).rxcap = some .unmapped ∧
    accessError 1 (0x103F : Word).toNat (small 30).rxcap = none ∧
    Memory.read (small 30).mem (0x103F : Word).toNat = some 0 ∧
    accessError 1 (0x1001D : Word).toNat (small 30).rxcap = none ∧
    Memory.read (small 30).mem (0x1001D : Word).toNat = none := by decide

theorem witness_ReadHalfAnswersTwoBytesBigEndian :
    accessError 2 (0x1001 : Word).toNat (received [0x12, 0x34, 0x56] (small 30)).rxcap = some .misaligned ∧
    accessError 2 (0x10000 : Word).toNat (received [0x12, 0x34, 0x56] (small 30)).rxcap = none ∧
    holdsAt (received [0x12, 0x34, 0x56] (small 30)).mem (0x10000 : Word).toNat [0x12, 0x34] ∧
    accessError 2 (0x10002 : Word).toNat (received [0x12, 0x34, 0x56] (small 30)).rxcap = none ∧
    Memory.read (received [0x12, 0x34, 0x56] (small 30)).mem ((0x10002 : Word).toNat + 1) = none ∧
    Memory.read (received [0x12, 0x34, 0x56] (small 30)).mem ((0x10002 : Word).toNat + 0) ≠ none := by decide

theorem witness_ReadWordAnswersARegisterOrFourBytesBigEndian :
    accessError 4 (0x1001C : Word).toNat (received [0x12] (small 30)).rxcap = some .unmapped ∧
    (0x58 : Word).toNat = Reg.offset .rxcap ∧ (0x00 : Word).toNat = Reg.offset .cmd ∧
    accessError 4 (0x103C : Word).toNat (received [0x12] (small 30)).rxcap = none ∧
    ¬ inRegWindow (0x103C : Word).toNat ∧
    holdsAt (received [0x12] (small 30)).mem (0x103C : Word).toNat [0, 0, 0, 0] ∧
    accessError 4 (0x10000 : Word).toNat (received [0x12] (small 30)).rxcap = none ∧
    ¬ inRegWindow (0x10000 : Word).toNat ∧
    Memory.read (received [0x12] (small 30)).mem ((0x10000 : Word).toNat + 1) = none ∧
    Memory.read (received [0x12] (small 30)).mem ((0x10000 : Word).toNat + 0) ≠ none := by decide

theorem witness_WriteByteStoresTheByte :
    (0xFF : Word).toNat < 2 ^ 8 ∧ accessError 1 (0x5B : Word).toNat (small 30).rxcap = some .size ∧
    inTxWindow (0x1000 : Word).toNat ∧ inTxWindow (0x103F : Word).toNat ∧
    inRxWindow (small 30).rxcap (0x10000 : Word).toNat ∧ inRxWindow (small 30).rxcap (0x1001D : Word).toNat := by decide

theorem witness_WriteHalfStoresTwoBytesBigEndian :
    (0xFFFF : Word).toNat < 2 ^ 16 ∧ accessError 2 (0x1001D : Word).toNat (small 30).rxcap = some .misaligned ∧
    accessError 2 (0x103E : Word).toNat (small 30).rxcap = none ∧ inTxWindow (0x103E : Word).toNat ∧
    accessError 2 (0x1001C : Word).toNat (small 30).rxcap = none ∧
    inRxWindow (small 30).rxcap (0x1001C : Word).toNat := by decide

theorem witness_WriteWordStoresARegisterOrFourBytesBigEndian :
    accessError 4 (0x5C : Word).toNat (small 30).rxcap = some .unmapped ∧
    accessError 4 (0x58 : Word).toNat (small 30).rxcap = none ∧ readOnlyAt (0x58 : Word).toNat ∧
    accessError 4 (0x103C : Word).toNat (small 30).rxcap = none ∧ readOnlyAt (0x103C : Word).toNat ∧
    (0x08 : Word).toNat = 0x08 ∧ (0x0C : Word).toNat = 0x0C ∧
    accessError 4 (0x10018 : Word).toNat (small 30).rxcap = none ∧
    inRxWindow (small 30).rxcap (0x10018 : Word).toNat := by decide

theorem witness_MixedWidthReadsSeeTheWordBigEndian :
    accessError 4 (0x10018 : Word).toNat (small 30).rxcap = none ∧
    inRxWindow (small 30).rxcap (0x10018 : Word).toNat := by decide

theorem witness_CommandErrorsMakeNoOtherEffect :
    (Instr.build 0).isCommand = true ∧
    nextWith (exec (.build 0) State.reset) (fun t => t.lastErr ≠ .ok) = true ∧
    nextWith (exec (.build 0) (session 1 0 999999)) (fun t => t.lastErr = .ok) = true := by decide

theorem witness_BuildAssemblesTheEchoRequest :
    State.reset.sact = false ∧
    (session 1 0 1000000).sact = true ∧ 1000000 ≤ (session 1 0 1000000).timeUsec.toNat ∧
    (session 1 0 999999).sact = true ∧ (session 1 0 999999).timeUsec.toNat < 1000000 := by decide

theorem witness_BuildChecksumHasTheClosedForm :
    (session 0xFFFF 0xFFFFFFFF 999999).sact = true ∧ (session 0xFFFF 0xFFFFFFFF 999999).timeUsec.toNat < 1000000 ∧
    completes (exec (.build 0xFFFF) (session 0xFFFF 0xFFFFFFFF 999999)) = true := by decide

theorem witness_BuiltPacketVerifies :
    (session 0 0xFFFFFFFF 999999).sact = true ∧ (session 0 0xFFFFFFFF 999999).timeUsec.toNat < 1000000 := by decide

/-- Vector B-9: two sends of one sequence number, and one of another. -/
theorem witness_BuildsOfOneSessionDifferOnlyInSequenceTimeAndChecksum :
    (session 1 1700000000 123456).sact = true ∧ (session 1 1700000007 999).ident = (session 1 1700000000 123456).ident ∧
    completes (exec (.build 3) (session 1 1700000000 123456)) = true ∧
    completes (exec (.build 3) (session 1 1700000007 999)) = true ∧
    completes (exec (.build 4) (session 1 1700000007 999)) = true ∧ (3 : Half) ≠ 4 := by decide

theorem witness_CksumChecksumsTheReceivePrefix :
    (small 64).rxcap.toNat < (65 : Half).toNat ∧
    (64 : Half).toNat ≤ (small 64).rxcap.toNat ∧
    (8 : Half).toNat ≤ (small 64).rxcap.toNat ∧ k1Bytes.length = (8 : Half).toNat ∧
    holdsAt (received k1Bytes (small 64)).mem 0x10000 k1Bytes ∧
    8 < (9 : Half).toNat ∧ Memory.read (received k1Bytes (small 64)).mem (0x10000 + 8) = none ∧
    (∀ j < 8, Memory.read (received k1Bytes (small 64)).mem (0x10000 + j) ≠ none) := by decide

theorem witness_AccumulatorHoldsTheExactSum : (List.replicate 3 (0xFF : Byte)).length ≤ 65535 := by decide

theorem witness_FoldKeepsTheResidueAndEndsInTwoPasses : 0xFFFF < 0x10000 ∧ 0x7FFFFFFF < 2 ^ 31 := by decide

/-- Vector C-18. -/
theorem witness_SplicedChecksumVerifies :
    [(0x12 : Byte), 0x34, 0x00, 0x00, 0xAB, 0xCD].length ≤ 65535 ∧ 2 % 2 = 0 ∧
    2 + 1 < [(0x12 : Byte), 0x34, 0x00, 0x00, 0xAB, 0xCD].length ∧
    [(0x12 : Byte), 0x34, 0x00, 0x00, 0xAB, 0xCD][2]? = some 0 ∧
    [(0x12 : Byte), 0x34, 0x00, 0x00, 0xAB, 0xCD][2 + 1]? = some 0 := by decide

/-- Vectors C-15, C-16 and C-17. -/
theorem witness_WordOrderDoesNotMatterByteOrderDoes :
    (wordsOf [0x12, 0x34, 0xAB, 0xCD]).Perm (wordsOf [0xAB, 0xCD, 0x12, 0x34]) ∧
    ([] : List Byte).length % 2 = 0 ∧ ([] ++ [(0x12 : Byte), 0x34] ++ [0xAB, 0xCD]).length ≤ 65535 := by decide

theorem witness_OnesSumIsTheResidueOfTheExactSum :
    [(0xFF : Byte), 0xFF].length ≤ 65535 ∧ ¬ (∀ b ∈ [(0xFF : Byte), 0xFF], b = 0) ∧
    [(0 : Byte), 0, 0].length ≤ 65535 ∧ (∀ b ∈ [(0 : Byte), 0, 0], b = 0) := by decide

/-- Vector C-23. -/
theorem witness_OnesSumOfAConcatenation :
    [(0x12 : Byte), 0x34].length % 2 = 0 ∧ ([(0x12 : Byte), 0x34] ++ [0xAB, 0xCD]).length ≤ 65535 := by decide

theorem witness_TrailingZeroBytesChangeNothing :
    [(0x01 : Byte), 0x02, 0x03].length % 2 = 1 ∧ [(0x12 : Byte), 0x34].length % 2 = 0 := by decide

/-- Vectors P-17, P-18 and P-19. -/
theorem witness_ParseErrorsComeInPriorityOrder :
    (session 1 0 0).txValid = false ∧
    { sent 1 0 0 0 0 with rxcap := 64 }.txValid = true ∧ { sent 1 0 0 0 0 with rxcap := 64 }.rxcap.toNat < (65 : Half).toNat ∧
    (sent 1 0 0 0 1000000).txValid = true ∧ (84 : Half).toNat ≤ (sent 1 0 0 0 1000000).rxcap.toNat ∧
    1000000 ≤ (sent 1 0 0 0 1000000).timeUsec.toNat := by decide

/-- Vector P-5's length, and P-13's. -/
theorem witness_ShortReplyGivesTheShortResult :
    (sent 1 0 0 0 999999).txValid = true ∧ (27 : Half).toNat ≤ (sent 1 0 0 0 999999).rxcap.toNat ∧
    (sent 1 0 0 0 999999).timeUsec.toNat < 1000000 ∧ (27 : Half).toNat < 28 ∧ (0 : Half).toNat < 28 := by decide

/-- Vector P-6's buffer, the shortest reply that is parsed. -/
def shortestReply : State := received (p1Header ++ p1Message.take 8) (sent 1 0 0 0 999999)

theorem witness_ReplyGivesTheOkResult :
    shortestReply.txValid = true ∧ 28 ≤ (28 : Half).toNat ∧ (28 : Half).toNat ≤ shortestReply.rxcap.toNat ∧
    shortestReply.timeUsec.toNat < 1000000 ∧
    Memory.read shortestReply.mem 0x10000 = some 0x45 ∧ Memory.read shortestReply.mem 0x10008 = some 0x40 ∧
    (p1Message.take 8).length = (28 : Half).toNat - 20 ∧
    holdsAt shortestReply.mem 0x10014 (p1Message.take 8) := by decide

/-- Vector P-23's buffer. -/
def lastByteMissing : State := received (p1Header ++ p1Message.take 7) (sent 1 0 0 0 0)

theorem witness_ParseFaultsAtTheFirstUnwrittenByteItReads :
    (∀ s ∈ [sent 1 0 0 0 0, received [0x45] (sent 1 0 0 0 0), lastByteMissing],
      s.txValid = true ∧ 28 ≤ (28 : Half).toNat ∧ (28 : Half).toNat ≤ s.rxcap.toNat ∧ s.timeUsec.toNat < 1000000) ∧
    Memory.read (sent 1 0 0 0 0).mem 0x10000 = none ∧
    Memory.read (received [0x45] (sent 1 0 0 0 0)).mem 0x10000 ≠ none ∧
    Memory.read (received [0x45] (sent 1 0 0 0 0)).mem 0x10008 = none ∧
    Memory.read lastByteMissing.mem 0x10000 ≠ none ∧ Memory.read lastByteMissing.mem 0x10008 ≠ none ∧
    20 ≤ 27 ∧ 27 < (28 : Half).toNat ∧ Memory.read lastByteMissing.mem (0x10000 + 27) = none ∧
    (∀ j < 27, 20 ≤ j → Memory.read lastByteMissing.mem (0x10000 + j) ≠ none) := by decide

/-- A reply and the same reply without the bytes the parser does not read, each parsed; and one that faults. -/
theorem witness_ParseReadsNoOtherByte :
    Memory.read [(0x10000, 0x45), (0x10008, 0x40)] 0x10000 = Memory.read (received p1Header State.reset).mem 0x10000 ∧
    Memory.read [(0x10000, 0x45), (0x10008, 0x40)] 0x10008 = Memory.read (received p1Header State.reset).mem 0x10008 ∧
    (∀ i < 28, 20 ≤ i → Memory.read [(0x10000, 0x45), (0x10008, 0x40)] (0x10000 + i) =
      Memory.read (received p1Header State.reset).mem (0x10000 + i)) ∧
    completes (parsing 27 p1Header) = true ∧ faultsWith (parsing 28 p1Header) (.unwritten 20) = true := by decide

theorem witness_RoundTripTimeIsBoundedSignedAndMonotone :
    (999999 : Word).toNat < 1000000 ∧
    ((0 : Word).toNat < (1 : Word).toNat ∨
      ((0 : Word).toNat = (1 : Word).toNat ∧ (999999 : Word).toNat ≤ (0 : Word).toNat)) ∧
    (rttMicros 1 0 0 999999).2 = true := by decide

theorem witness_ParsingTheSameReplyAgainGivesTheSameState :
    completes (parsing 28 (p1Header ++ p1Message.take 8)) = true ∧ completes (parsing 27 []) = true := by decide

theorem witness_ParseReportsTheLastPacketBuilt :
    (session 1 0 999999).sact = true ∧ (session 1 0 999999).timeUsec.toNat < 1000000 ∧
    nextWith (exec (.build 0xFFFF) (received (p1Header ++ p1Message.take 8) (session 1 0 999999)))
      (fun t => 28 ≤ t.rxcap.toNat && completes (exec (.parse 28) t)) = true := by decide +kernel

end Sys2Proof.Tests
end

section
/-! The command words of R77: which of them decode, and what a `WR32` to `CMD` does with one. -/

namespace Sys2Proof

theorem withoutOperand_error {imm : Half} {j : Instr} {e : CommandReject} :
    withoutOperand imm j = .error e ↔ imm ≠ 0 ∧ e = .strayOperand := by
  unfold withoutOperand
  split
  · next h => exact ⟨fun he => (nomatch he), fun he => absurd h he.1⟩
  · next h => exact ⟨fun he => by cases he; exact ⟨h, rfl⟩, fun he => by rw [he.2]⟩

/-- R71 to R73: the command a word decodes to is encoded by that word. -/
theorem encode_of_decodeCommand_ok {w : Word} {c : Instr} (h : decodeCommand w = .ok c) : encode c = .command w := by
  obtain ⟨hrsv, h⟩ := decodeCommand_ok h
  rw [← commandWord_fields hrsv]
  rcases h with ⟨hop, himm, rfl⟩ | ⟨hop, rfl⟩ | ⟨hop, rfl⟩ | ⟨hop, rfl⟩ | ⟨hop, rfl⟩ | ⟨hop, himm, rfl⟩ | ⟨hop, himm, rfl⟩ <;>
    simp [encode, *]

end Sys2Proof

namespace Sys2Proof.Machine

theorem illegalWord_iff {w : Word} : illegalWord w ↔
    rsvField w ≠ 0 ∨ 7 ≤ (opField w).toNat ∨ ((opField w = 0 ∨ opField w = 5 ∨ opField w = 6) ∧ immField w ≠ 0) :=
  Iff.rfl

/-- R200: the decoder rejects illegal words only. -/
theorem illegalWord_of_decodeCommand_error {w : Word} {e : CommandReject} (h : decodeCommand w = .error e) :
    illegalWord w := by
  rw [illegalWord_iff, ← BitVec.toNat_inj, ← BitVec.toNat_inj (y := 5), ← BitVec.toNat_inj (y := 6)]
  unfold decodeCommand at h
  split at h
  · next hrsv => exact .inl hrsv
  · split at h
    · next hop => exact .inr (.inr ⟨.inl hop, (withoutOperand_error.1 h).1⟩)
    · cases h
    · cases h
    · cases h
    · cases h
    · next hop => exact .inr (.inr ⟨.inr (.inl hop), (withoutOperand_error.1 h).1⟩)
    · next hop => exact .inr (.inr ⟨.inr (.inr hop), (withoutOperand_error.1 h).1⟩)
    · next h0 h1 h2 h3 h4 h5 h6 =>
      have hop : 7 ≤ (opField w).toNat := by
        simp only [imp_false] at h0 h1 h2 h3 h4 h5 h6
        omega
      exact .inr (.inl hop)

/-- R200: no illegal word decodes. -/
theorem not_illegalWord_of_decodeCommand_ok {w : Word} {c : Instr} (h : decodeCommand w = .ok c) :
    ¬ illegalWord w := by
  rw [illegalWord_iff]
  obtain ⟨hrsv, h⟩ := decodeCommand_ok h
  rcases h with ⟨hop, himm, -⟩ | ⟨hop, -⟩ | ⟨hop, -⟩ | ⟨hop, -⟩ | ⟨hop, -⟩ | ⟨hop, himm, -⟩ | ⟨hop, himm, -⟩ <;>
    simp [*]

/-- R77: a word decodes exactly when it is not illegal. -/
theorem exists_decodeCommand_ok_iff {w : Word} : (∃ c, decodeCommand w = .ok c) ↔ ¬ illegalWord w := by
  constructor
  · rintro ⟨c, hc⟩
    exact not_illegalWord_of_decodeCommand_ok hc
  · intro hw
    cases h : decodeCommand w with
    | ok c => exact ⟨c, rfl⟩
    | error e => exact absurd (illegalWord_of_decodeCommand_error h) hw

/-- R75, R186: a `WR32` to `CMD` stores the word, runs it and answers `Ok`. -/
theorem exec_wr32_cmd (s : State) (w : Word) :
    exec (.wr32 0 w) s = answerDone (execCommandWord w (s.storeCmd w)) := by
  have hreg : decodeAddr 4 0 s.rxcap = .ok (.reg .cmd) := decodeAddr_reg .cmd s.rxcap
  simp only [exec, execWr32, busWrite, busAccess, hreg, writeReg]

/-- R75: an illegal word raises `EILLEGAL` and runs nothing. -/
theorem execCommandWord_of_illegalWord {w : Word} (hw : illegalWord w) (s : State) :
    execCommandWord w s = .next (s.raiseCmdError .eillegal) := by
  unfold execCommandWord
  split
  · rfl
  · next c hc => exact absurd hw (not_illegalWord_of_decodeCommand_ok hc)

/-- Settles O4: the words that decode are those that are not illegal, and the `WR32` that carries an illegal one does no
more than store it and raise `EILLEGAL`. -/
theorem everyCommandWordIsACommandOrIllegal : Obligations.EveryCommandWordIsACommandOrIllegal := by
  unfold Obligations.EveryCommandWordIsACommandOrIllegal
  refine ⟨fun s w hw => ?_, fun w => ?_⟩
  · rw [exec_wr32_cmd, execCommandWord_of_illegalWord hw]
    rfl
  · rw [← exists_decodeCommand_ok_iff]
    constructor
    · rintro ⟨c, -, -, hc⟩
      exact ⟨c, hc⟩
    · rintro ⟨c, hc⟩
      exact ⟨c, decodeCommand_isCommand hc, encode_of_decodeCommand_ok hc, hc⟩

end Sys2Proof.Machine
end

section
/-! R101, R102, R104 as equations of numbers: the sum never wraps, one pass of the fold and the loop to its end, and what
the folded sum and the checksum depend on. -/

namespace Sys2Proof.Machine

/-- R101: the words of at most 65535 bytes sum to less than 2^31. -/
theorem wordSum_le_of_length_le {s : List Byte} (h : s.length ≤ 65535) : wordSum s ≤ 0x7FFF8000 := by
  have := wordSum_le s
  omega

/-- R101: the accumulator holds the exact sum. -/
theorem accumulate_toNat {s : List Byte} (h : s.length ≤ 65535) : (accumulate s).toNat = wordSum s := by
  have := wordSum_le_of_length_le h
  rw [accumulate, BitVec.toNat_ofNat]
  omega

/-- R103: the folded sum is the fold of the exact sum. -/
theorem onesSum_toNat_eq_fold {s : List Byte} (h : s.length ≤ 65535) : (onesSum s).toNat = fold (wordSum s) := by
  rw [onesSum_toNat, accumulate_toNat h]

/-- R102: one pass of the loop. -/
theorem foldLoop_one {acc : Nat} (h : 0xFFFF < acc) : foldLoop 1 acc = acc % 0x10000 + acc / 0x10000 := by
  rw [foldLoop, if_pos h, foldLoop]

/-- R102: passes add up. -/
theorem foldLoop_add (m n acc : Nat) : foldLoop (m + n) acc = foldLoop n (foldLoop m acc) := by
  induction m generalizing acc with
  | zero => simp [foldLoop]
  | succ m ih =>
    rw [Nat.succ_add, foldLoop, foldLoop]
    split
    · exact ih _
    · next h => exact (foldLoop_of_le n (by omega)).symm

/-- R102: the first pass from below 2^31. -/
theorem foldLoop_one_le {acc : Nat} (h : acc < 2 ^ 31) : foldLoop 1 acc ≤ 0x17FFE := by
  rcases Nat.lt_or_ge 0xFFFF acc with hacc | hacc
  · rw [foldLoop_one hacc]
    omega
  · rw [foldLoop_of_le 1 hacc]
    omega

/-- R102: the second pass from below 2^31. -/
theorem foldLoop_two_le {acc : Nat} (h : acc < 2 ^ 31) : foldLoop 2 acc ≤ 0xFFFF := by
  have hfirst := foldLoop_one_le h
  rw [foldLoop_add 1 1]
  rcases Nat.lt_or_ge 0xFFFF (foldLoop 1 acc) with hacc | hacc
  · rw [foldLoop_one hacc]
    omega
  · rwa [foldLoop_of_le 1 hacc]

/-- R102: the loop keeps the residue modulo 0xFFFF. -/
theorem fold_mod {acc : Nat} (h : acc < 2 ^ 32) : fold acc % 0xFFFF = acc % 0xFFFF := by
  rw [fold_eq h]
  split <;> omega

/-- R111: only 0 folds to 0. -/
theorem fold_eq_zero_iff {acc : Nat} (h : acc < 2 ^ 32) : fold acc = 0 ↔ acc = 0 := by
  rw [fold_eq h]
  split <;> omega

/-- R111: two sums fold alike exactly when they have one residue modulo 0xFFFF and are 0 together. -/
theorem fold_eq_fold_iff {x y : Nat} (hx : x < 2 ^ 32) (hy : y < 2 ^ 32) :
    fold x = fold y ↔ x % 0xFFFF = y % 0xFFFF ∧ (x = 0 ↔ y = 0) := by
  rw [fold_eq hx, fold_eq hy]
  split <;> split <;> omega

/-- R112: folding the summands first changes nothing. -/
theorem fold_fold_add_fold {x y : Nat} (h : x + y < 2 ^ 32) : fold (fold x + fold y) = fold (x + y) := by
  have hx : x < 2 ^ 32 := by omega
  have hy : y < 2 ^ 32 := by omega
  have hxle := fold_le hx
  have hyle := fold_le hy
  refine (fold_eq_fold_iff (by omega) h).2 ⟨?_, ?_⟩
  · rw [Nat.add_mod, fold_mod hx, fold_mod hy, ← Nat.add_mod]
  · rw [Nat.add_eq_zero_iff, Nat.add_eq_zero_iff, fold_eq_zero_iff hx, fold_eq_zero_iff hy]

/-- R107: adding the complement of its fold takes a sum to the residue 0, represented by 0xFFFF. -/
theorem fold_add_complement {acc : Nat} (h : acc < 2 ^ 31) : fold (acc + (0xFFFF - fold acc)) = 0xFFFF := by
  rw [fold_eq (acc := acc + _) (by omega), fold_eq (acc := acc) (by omega)]
  split <;> split <;> omega

theorem checksum_eq_checksum_iff {s s' : List Byte} : checksum s = checksum s' ↔ onesSum s = onesSum s' := BitVec.not_inj

theorem checksum_eq_iff {s : List Byte} {v : Half} : checksum s = v ↔ onesSum s = ~~~v := by
  rw [checksum, ← BitVec.not_inj, BitVec.not_not]

/-- R110, R113: the folded sum and the checksum depend on the sum of the words alone. -/
theorem onesSum_checksum_congr {s s' : List Byte} (h : wordSum s = wordSum s') :
    onesSum s = onesSum s' ∧ checksum s = checksum s' := by
  have hsum : onesSum s = onesSum s' := by rw [onesSum, onesSum, accumulate, accumulate, h]
  exact ⟨hsum, checksum_eq_checksum_iff.2 hsum⟩

theorem be16_toNat_eq_zero_iff {x y : Byte} : (be16 x y).toNat = 0 ↔ x = 0 ∧ y = 0 := by
  rw [be16_toNat, ← BitVec.toNat_inj, ← BitVec.toNat_inj, show (0 : Byte).toNat = 0 from rfl]
  omega

/-- R111: the words sum to 0 exactly when every byte is 0. -/
theorem wordSum_eq_zero_iff {s : List Byte} : wordSum s = 0 ↔ ∀ b ∈ s, b = 0 := by
  induction s using wordSum.induct with
  | case1 => simp
  | case2 b => simp [be16_toNat_eq_zero_iff]
  | case3 x y rest ih =>
    rw [wordSum_cons_cons, Nat.add_eq_zero_iff, be16_toNat_eq_zero_iff, ih]
    simp [and_assoc]

theorem wordSum_replicate_zero (n : Nat) : wordSum (List.replicate n 0) = 0 :=
  wordSum_eq_zero_iff.2 fun _ hb => List.eq_of_mem_replicate hb

/-- R113: a zero byte makes the implicit pad of an odd length explicit. -/
theorem wordSum_append_zero {s : List Byte} (h : s.length % 2 = 1) : wordSum (s ++ [0]) = wordSum s := by
  induction s using wordSum.induct with
  | case1 => simp at h
  | case2 b => simp
  | case3 x y rest ih =>
    rw [List.length_cons, List.length_cons] at h
    rw [List.cons_append, List.cons_append, wordSum_cons_cons, wordSum_cons_cons, ih (by omega)]

/-- R107: two bytes written over a zeroed word add that word to the sum. -/
theorem wordSum_splice {s : List Byte} {p : Nat} (x y : Byte) (hp : p % 2 = 0) (h0 : s[p]? = some 0)
    (h1 : s[p + 1]? = some 0) : wordSum ((s.set p x).set (p + 1) y) = wordSum s + (be16 x y).toNat := by
  induction s using wordSum.induct generalizing p with
  | case1 => simp at h0
  | case2 b => simp at h1
  | case3 a b rest ih =>
    match p with
    | 0 =>
      obtain rfl : a = 0 := by simpa using h0
      obtain rfl : b = 0 := by simpa using h1
      simp [be16_toNat, Nat.add_comm]
    | 1 => omega
    | p + 2 =>
      have := ih (p := p) (by omega) (by simpa using h0) (by simpa using h1)
      simp only [List.set_cons_succ, wordSum_cons_cons, this]
      omega

end Sys2Proof.Machine
end

section
/-! The laws of R101, R102, R107 to R109 and R111 to R113 over every byte sequence. -/

namespace Sys2Proof.Machine

/-- Settles O39, by the bound of the sum of at most 32768 words. -/
theorem accumulatorHoldsTheExactSum : Obligations.AccumulatorHoldsTheExactSum := by
  unfold Obligations.AccumulatorHoldsTheExactSum
  intro s hs
  rw [← wordSum_eq_exactSum]
  exact ⟨accumulate_toNat hs, wordSum_le_of_length_le hs, by decide⟩

/-- Settles O40: 0x10000 is 1 modulo 0xFFFF, and the loop stops at a sum that fits 16 bits. -/
theorem foldKeepsTheResidueAndEndsInTwoPasses : Obligations.FoldKeepsTheResidueAndEndsInTwoPasses := by
  unfold Obligations.FoldKeepsTheResidueAndEndsInTwoPasses
  constructor
  · intro acc hacc
    rw [foldLoop_one hacc]
    omega
  · intro acc hacc
    have hsecond := foldLoop_two_le hacc
    have hfold : fold acc = foldLoop 2 acc := by
      rw [fold, foldLoop_add 2 30, foldLoop_of_le 30 hsecond]
    exact ⟨foldLoop_one_le hacc, hsecond, hfold⟩

/-- Settles O41: the field adds the complement of the folded sum to a sum of that fold. -/
theorem splicedChecksumVerifies : Obligations.SplicedChecksumVerifies := by
  unfold Obligations.SplicedChecksumVerifies
  intro s p hs hp _ h0 h1
  have hsum : onesSum ((s.set p ((checksum s).extractLsb' 8 8)).set (p + 1) ((checksum s).extractLsb' 0 8)) = 0xFFFF := by
    apply BitVec.eq_of_toNat_eq
    have hbound := wordSum_le_of_length_le hs
    rw [onesSum_toNat_eq_fold (by simpa using hs), wordSum_splice _ _ hp h0 h1, be16_bytesBe16, checksum_toNat,
      onesSum_toNat_eq_fold hs, fold_add_complement (by omega)]
    rfl
  exact ⟨hsum, checksum_eq_iff.2 hsum⟩

/-- Settles O42: zero bytes have the word sum of the empty sequence. -/
theorem checksumOfZeroBytes : Obligations.ChecksumOfZeroBytes := by
  unfold Obligations.ChecksumOfZeroBytes
  intro n
  have hsame : checksum (List.replicate n 0) = checksum [] := (onesSum_checksum_congr (wordSum_replicate_zero n)).2
  rw [hsame]
  decide

/-- R109: sequences whose words are a permutation of each other have one sum. -/
theorem wordSum_eq_of_perm {s s' : List Byte} (h : (wordsOf s).Perm (wordsOf s')) : wordSum s = wordSum s' := by
  rw [wordSum_eq_exactSum, wordSum_eq_exactSum]
  exact (h.map BitVec.toNat).sum_eq

/-- R109: the sum around a word at an even index. -/
theorem wordSum_around_word {pre : List Byte} (a b : Byte) (post : List Byte) (h : pre.length % 2 = 0) :
    wordSum (pre ++ [a, b] ++ post) = wordSum pre + (be16 a b).toNat + wordSum post := by
  rw [wordSum_append _ _ (by rw [List.length_append, List.length_cons, List.length_singleton]; omega),
    wordSum_append _ _ h]
  simp

/-- Settles O43: a permutation keeps the sum of the words, and a swap moves it by `255 * (a - b)`, less than 0xFFFF
either way. -/
theorem wordOrderDoesNotMatterByteOrderDoes : Obligations.WordOrderDoesNotMatterByteOrderDoes := by
  unfold Obligations.WordOrderDoesNotMatterByteOrderDoes
  refine ⟨fun s s' h => onesSum_checksum_congr (wordSum_eq_of_perm h), fun pre post a b hpre hlen => ?_⟩
  have hlen' : (pre ++ [b, a] ++ post).length ≤ 65535 := by simpa using hlen
  have hle := wordSum_le_of_length_le hlen
  have hle' := wordSum_le_of_length_le hlen'
  rw [ne_eq, ne_eq, not_iff_not, checksum_eq_checksum_iff, ← BitVec.toNat_inj, onesSum_toNat_eq_fold hlen,
    onesSum_toNat_eq_fold hlen', fold_eq_fold_iff (by omega) (by omega), wordSum_around_word a b post hpre,
    wordSum_around_word b a post hpre, be16_toNat, be16_toNat, ← BitVec.toNat_inj]
  have ha := a.isLt
  have hb := b.isLt
  constructor
  · rintro ⟨hres, -⟩
    omega
  · intro hab
    rw [hab]
    exact ⟨rfl, Iff.rfl⟩

/-- R111: the folded sum in closed form. -/
theorem onesSum_toNat_of_exactSum {s : List Byte} (h : s.length ≤ 65535) :
    (onesSum s).toNat = if exactSum s = 0 then 0 else (exactSum s - 1) % 0xFFFF + 1 := by
  have := wordSum_le_of_length_le h
  rw [onesSum_toNat_eq_fold h, fold_eq (by omega), wordSum_eq_exactSum]

/-- R111: the folded sum is 0 only over zero bytes. -/
theorem onesSum_eq_zero_iff {s : List Byte} (h : s.length ≤ 65535) : onesSum s = 0 ↔ ∀ b ∈ s, b = 0 := by
  rw [← wordSum_eq_zero_iff, wordSum_eq_exactSum, ← BitVec.toNat_inj, onesSum_toNat_of_exactSum h,
    show (0 : Half).toNat = 0 from rfl]
  split <;> omega

/-- Settles O44, from the closed form of the fold. -/
theorem onesSumIsTheResidueOfTheExactSum : Obligations.OnesSumIsTheResidueOfTheExactSum := by
  unfold Obligations.OnesSumIsTheResidueOfTheExactSum
  intro s hs
  refine ⟨onesSum_eq_zero_iff hs, fun hne => ?_, checksum_eq_iff.trans (onesSum_eq_zero_iff hs), checksum_eq_iff⟩
  rw [← wordSum_eq_zero_iff, wordSum_eq_exactSum] at hne
  rw [onesSum_toNat_of_exactSum hs, if_neg hne]

/-- Settles O45: an even first length keeps the words apart; two single bytes 0x01 join in one word. -/
theorem onesSumOfAConcatenation : Obligations.OnesSumOfAConcatenation := by
  unfold Obligations.OnesSumOfAConcatenation
  refine ⟨fun a b ha hlen => ?_, [1], [1], by decide⟩
  have hle := wordSum_le_of_length_le hlen
  rw [wordSum_append _ _ ha] at hle
  rw [List.length_append] at hlen
  rw [onesSum_toNat_eq_fold (by simpa using hlen), onesSum_toNat_eq_fold (s := a) (by omega),
    onesSum_toNat_eq_fold (s := b) (by omega), wordSum_append _ _ ha, fold_fold_add_fold (by omega)]

/-- Settles O46: the zero bytes add nothing to the sum of the words. -/
theorem trailingZeroBytesChangeNothing : Obligations.TrailingZeroBytesChangeNothing := by
  unfold Obligations.TrailingZeroBytesChangeNothing
  refine ⟨fun s hs => onesSum_checksum_congr (wordSum_append_zero hs), fun s n hs => onesSum_checksum_congr ?_⟩
  rw [wordSum_append _ _ hs, wordSum_replicate_zero, Nat.add_zero]

end Sys2Proof.Machine
end

section
/-! The two checksum commands (R105, R106): what `CKSUM` does in each case of its operand and of `RX`, and what `TX`
holds. -/

namespace Sys2Proof.Machine

/-- R105, R106, R202: all that a checksum command changes where it completes. -/
theorem completeCmd_setChecksum (s : State) (bs : List Byte) :
    (s.setChecksum bs).completeCmd = { s with ckSum := onesSum bs, ckResult := checksum bs, lastErr := .ok } := rfl

theorem execCksum_of_rxcap_lt {s : State} {len : Half} (h : s.rxcap.toNat < len.toNat) :
    execCksum len s = .next (s.raiseCmdError .ebadlen) := if_pos h

theorem execCksum_of_rxRange_ok {s : State} {len : Half} {bs : List Byte} (h : len.toNat ≤ s.rxcap.toNat)
    (hbs : rxRange s.mem 0 len.toNat = .ok bs) : execCksum len s = .next (s.setChecksum bs).completeCmd := by
  rw [execCksum, if_neg (by omega), hbs]

theorem execCksum_of_rxRange_error {s : State} {len : Half} {f : Fault} (h : len.toNat ≤ s.rxcap.toNat)
    (hf : rxRange s.mem 0 len.toNat = .error f) : execCksum len s = .fault f := by
  rw [execCksum, if_neg (by omega), hf]

/-- Settles O37, by the cases of the capacity check and of the read of `RX[0..len)`. -/
theorem cksumChecksumsTheReceivePrefix : Obligations.CksumChecksumsTheReceivePrefix := by
  unfold Obligations.CksumChecksumsTheReceivePrefix
  intro s len
  refine ⟨execCksum_of_rxcap_lt, fun bs hcap hlen hbs => ?_, fun i hi hcap hnone hsome => ?_⟩
  · exact execCksum_of_rxRange_ok hcap (rxRange_of_holdsAt s 0x10000 len.toNat bs le_rfl hlen hbs)
  · have hfault := rxRange_of_first_unwritten s 0x10000 len.toNat i le_rfl hi hnone hsome
    rw [Nat.add_sub_cancel_left] at hfault
    exact execCksum_of_rxRange_error hcap hfault

/-- R40, R52: `TX[0..64)` is what memory holds in the transmit window. -/
theorem holdsAt_txRange (m : Memory) : holdsAt m Config.txBase (txRange m 0 Config.txLen) := by
  intro k hk
  rw [txRange_length] at hk
  rw [txRange_getElem? _ _ _ _ hk, txByte, Nat.zero_add]
  obtain ⟨b, hb⟩ := Option.isSome_iff_exists.1 (Memory.read_tx_isSome m hk)
  rw [hb, Option.getD_some]

/-- Settles O38: every byte of `TX` reads as something. -/
theorem cktxChecksumsTheTransmitBuffer : Obligations.CktxChecksumsTheTransmitBuffer := by
  unfold Obligations.CktxChecksumsTheTransmitBuffer
  intro s
  refine ⟨txRange s.mem 0 Config.txLen, txRange_length _ _ _, holdsAt_txRange s.mem, ?_⟩
  rw [exec, execCktx, completeCmd_setChecksum]

end Sys2Proof.Machine
end

section
/-! The builder (R120 to R126): the fields of a packet, its checksum, and what `BUILD` leaves in `TX`. -/

namespace Sys2Proof.Machine

/-! ## The packet -/

/-- R120: the model's layout is that of the statements. -/
theorem packetWith_eq_requestBytes (c id seq : Half) (sec usec : Word) :
    packetWith c id seq sec usec = requestBytes c id seq sec usec := rfl

@[simp] theorem packetWith_length (c id seq : Half) (sec usec : Word) : (packetWith c id seq sec usec).length = 64 := by
  simp [packetWith, bytesBe16, bytesBe32, filler]

/-- R12: a 16-bit value has one big-endian pair of bytes. -/
theorem be16_inj {x y x' y' : Byte} : be16 x y = be16 x' y' ↔ x = x' ∧ y = y' := by
  have hy := y.isLt
  have hy' := y'.isLt
  rw [← BitVec.toNat_inj, ← BitVec.toNat_inj, ← BitVec.toNat_inj, be16_toNat, be16_toNat]
  omega

/-- R120: the checksum field, the bytes 2 and 3. -/
theorem be16At_packetWith_checksum (c id seq : Half) (sec usec : Word) : be16At (packetWith c id seq sec usec) 2 = c :=
  be16_bytesBe16 c

/-- R120: the identifier, the bytes 4 and 5. -/
theorem be16At_packetWith_ident (c id seq : Half) (sec usec : Word) : be16At (packetWith c id seq sec usec) 4 = id :=
  be16_bytesBe16 id

/-- R120: the sequence number, the bytes 6 and 7. -/
theorem be16At_packetWith_seq (c id seq : Half) (sec usec : Word) : be16At (packetWith c id seq sec usec) 6 = seq :=
  be16_bytesBe16 seq

/-- R120, R121, R126: type, code, identifier and filler do not depend on checksum, sequence number and time. -/
theorem byteAt_packetWith_fixed {i : Nat} (h : i = 0 ∨ i = 1 ∨ i = 4 ∨ i = 5 ∨ 16 ≤ i) (c c' id seq seq' : Half)
    (sec sec' usec usec' : Word) :
    byteAt (packetWith c id seq sec usec) i = byteAt (packetWith c' id seq' sec' usec') i := by
  rcases h with rfl | rfl | rfl | rfl | h
  · rfl
  · rfl
  · rfl
  · rfl
  · obtain ⟨k, rfl⟩ := Nat.exists_eq_add_of_le' h
    rfl

/-- R123: the checksum of a packet as a number. -/
theorem packetChecksum_toNat (id seq : Half) (sec usec : Word) :
    (packetChecksum id seq sec usec).toNat =
      0xFFFF - fold (0x2F300 + id.toNat + seq.toNat + (sec.extractLsb' 16 16).toNat + (sec.extractLsb' 0 16).toNat +
        (usec.extractLsb' 16 16).toNat + (usec.extractLsb' 0 16).toNat) := by
  rw [packetChecksum, checksum_toNat, onesSum_toNat_eq_fold (by simp), wordSum_packetWith,
    show (0 : Half).toNat = 0 from rfl, Nat.add_zero]

/-- R122: the packet is the one with a zero checksum field, the checksum spliced in at index 2. -/
theorem echoRequest_eq_splice (id seq : Half) (sec usec : Word) :
    echoRequest id seq sec usec =
      ((packetWith 0 id seq sec usec).set 2 ((checksum (packetWith 0 id seq sec usec)).extractLsb' 8 8)).set (2 + 1)
        ((checksum (packetWith 0 id seq sec usec)).extractLsb' 0 8) := rfl

/-- R124, from R107 at the even index 2. -/
theorem echoRequest_verifies (id seq : Half) (sec usec : Word) :
    onesSum (echoRequest id seq sec usec) = 0xFFFF ∧ checksum (echoRequest id seq sec usec) = 0x0000 := by
  rw [echoRequest_eq_splice]
  exact splicedChecksumVerifies (packetWith 0 id seq sec usec) 2 (by simp) rfl (by simp) rfl rfl

/-! ## The command -/

theorem execBuild_of_no_session {s : State} {seq : Half} (h : s.sact = false) :
    execBuild seq s = .next (s.raiseCmdError .estate) := if_pos h

theorem execBuild_of_bad_time {s : State} {seq : Half} (h : s.sact = true) (ht : 1000000 ≤ s.timeUsec.toNat) :
    execBuild seq s = .next (s.raiseCmdError .ebadtime) := by
  rw [execBuild, if_neg (by simp [h]), if_pos ht]

/-- A byte sequence written is what memory holds there. -/
theorem holdsAt_writeBytes (m : Memory) (a : Nat) (bs : List Byte) : holdsAt (Memory.writeBytes m a bs) a bs :=
  fun k hk => Memory.read_writeBytes_inside bs m a k hk

/-- R52, R122: the packet goes to `TX` and nowhere else. -/
theorem read_latchPacket_outside {s : State} {seq : Half} {a : Nat} (h : a < 0x1000 ∨ 0x103F < a) :
    Memory.read (s.latchPacket seq).mem a = Memory.read s.mem a := by
  rw [State.latchPacket_mem]
  refine Memory.read_writeBytes_outside _ _ _ _ (h.imp_right fun h => ?_)
  rw [echoRequest_length]
  exact h

/-- Settles O33, by the two checks of `BUILD` and the laws of memory for the packet it writes. -/
theorem buildAssemblesTheEchoRequest : Obligations.BuildAssemblesTheEchoRequest := by
  unfold Obligations.BuildAssemblesTheEchoRequest
  intro s seq
  refine ⟨execBuild_of_no_session, execBuild_of_bad_time, fun hact htime => ⟨(s.latchPacket seq).mem, ?_, ?_, ?_, ?_⟩⟩
  · exact execBuild_completes hact htime
  · rw [← packetWith_eq_requestBytes, packetWith_length]
  · rw [← echoRequest_eq_requestBytes, State.latchPacket_mem]
    exact holdsAt_writeBytes s.mem Config.txBase _
  · exact fun a ha => read_latchPacket_outside ha

section Built

variable {s t : State} {seq : Half} (hact : s.sact = true) (htime : s.timeUsec.toNat < 1000000)
  (hbuild : exec (.build seq) s = .next t)

include hact htime hbuild

/-- R122: the state a completed `BUILD` answers. -/
theorem eq_latchPacket_of_build : t = (s.latchPacket seq).completeCmd := by
  have hcompletes : exec (.build seq) s = .next (s.latchPacket seq).completeCmd := execBuild_completes hact htime
  exact Host.Outcome.next.inj (hbuild.symm.trans hcompletes)

/-- R122: the bytes of `TX` after a completed `BUILD`. -/
theorem txByte_of_build {i : Nat} (hi : i < 64) :
    txByte t.mem i = byteAt (echoRequest s.ident seq s.timeSec s.timeUsec) i := by
  rw [← txRange_latchPacket, ← eq_latchPacket_of_build hact htime hbuild, byteAt, List.getD_eq_getElem?_getD,
    txRange_getElem? _ _ _ _ hi, Nat.zero_add, Option.getD_some]

/-- R55, R122: the 16-bit fields of `TX` after a completed `BUILD`. -/
theorem be16_txByte_of_build {i : Nat} (hi : i + 1 < 64) :
    be16 (txByte t.mem i) (txByte t.mem (i + 1)) = be16At (echoRequest s.ident seq s.timeSec s.timeUsec) i := by
  rw [txByte_of_build hact htime hbuild (Nat.lt_of_succ_lt hi), txByte_of_build hact htime hbuild hi, be16At]

/-- R126: the sequence number is read back from `TX[6..8)`. -/
theorem be16_txByte_seq_of_build : be16 (txByte t.mem 6) (txByte t.mem 7) = seq :=
  (be16_txByte_of_build hact htime hbuild (by decide)).trans (be16At_packetWith_seq ..)

/-- R125: the identifier is read back from `TX[4..6)`. -/
theorem be16_txByte_ident_of_build : be16 (txByte t.mem 4) (txByte t.mem 5) = s.ident :=
  (be16_txByte_of_build hact htime hbuild (by decide)).trans (be16At_packetWith_ident ..)

/-- R122: the checksum is read back from `TX[2..4)`. -/
theorem be16_txByte_checksum_of_build :
    be16 (txByte t.mem 2) (txByte t.mem 3) = packetChecksum s.ident seq s.timeSec s.timeUsec :=
  (be16_txByte_of_build hact htime hbuild (by decide)).trans (be16At_packetWith_checksum ..)

end Built

/-- Settles O34, by the word sum of the packet with its checksum field 0. -/
theorem buildChecksumHasTheClosedForm : Obligations.BuildChecksumHasTheClosedForm := by
  unfold Obligations.BuildChecksumHasTheClosedForm
  intro s t seq hact htime hbuild
  rw [← be16, be16_txByte_checksum_of_build hact htime hbuild, packetChecksum_toNat]

/-- Settles O35: `CKTX` checksums the packet that `TX` holds. -/
theorem builtPacketVerifies : Obligations.BuiltPacketVerifies := by
  unfold Obligations.BuiltPacketVerifies
  intro s seq hact htime
  refine ⟨(s.latchPacket seq).completeCmd, execBuild_completes hact htime, ?_⟩
  obtain ⟨hsum, hchecksum⟩ := echoRequest_verifies s.ident seq s.timeSec s.timeUsec
  rw [exec, execCktx, completeCmd_setChecksum, txRange_latchPacket, hsum, hchecksum]
  exact ⟨rfl, rfl, rfl⟩

/-- Settles O36: the bytes that may differ are those outside the fixed ones of the layout, and the bytes 6 and 7 give
the sequence number back. -/
theorem buildsOfOneSessionDifferOnlyInSequenceTimeAndChecksum :
    Obligations.BuildsOfOneSessionDifferOnlyInSequenceTimeAndChecksum := by
  unfold Obligations.BuildsOfOneSessionDifferOnlyInSequenceTimeAndChecksum
  intro s s' t t' seq seq' hact hact' htime htime' hident hbuild hbuild'
  have hseq : seq = seq' ↔ txByte t.mem 6 = txByte t'.mem 6 ∧ txByte t.mem 7 = txByte t'.mem 7 := by
    rw [← be16_inj, be16_txByte_seq_of_build hact htime hbuild, be16_txByte_seq_of_build hact' htime' hbuild']
  refine ⟨fun i hi hne => ?_, hseq.1, fun hne => ?_, be16_txByte_ident_of_build hact htime hbuild⟩
  · by_contra hnot
    refine hne ?_
    rw [txByte_of_build hact htime hbuild hi, txByte_of_build hact' htime' hbuild' hi, hident]
    exact byteAt_packetWith_fixed (by omega) ..
  · rwa [ne_eq, hseq, not_and_or] at hne

end Sys2Proof.Machine
end

section
/-! The parser (R140 to R151): what `PARSE` does past its checks, and the fields of an `OK` result as numbers and bits. -/

namespace Sys2Proof.Machine

/-! ## The result -/

/-- R149, R202: all that a `PARSE` changes where it completes. -/
theorem completeCmd_setResult (s : State) (r : ProbeResult) :
    (s.setResult r).completeCmd = { s with res := r, lastErr := .ok } := rfl

/-- R147: the model's difference is that of the statements, 0 and flagged where it is negative. -/
theorem rttMicros_eq (ss su rs ru : Word) :
    rttMicros ss su rs ru = ((microsBetween ss su rs ru).toNat, decide (microsBetween ss su rs ru < 0)) := by
  change (if microsBetween ss su rs ru < 0 then (0, true) else ((microsBetween ss su rs ru).toNat, false)) = _
  split
  · next hneg => rw [Int.toNat_of_nonpos (le_of_lt hneg), decide_eq_true hneg]
  · next hnonneg => rw [decide_eq_false hnonneg]

/-- R147: `RES_RTT_LO`, the low half of the 64-bit difference. -/
theorem extractLsb'_low_ofNat_64 (d : Nat) : (BitVec.ofNat 64 d).extractLsb' 0 32 = BitVec.ofNat 32 d := by
  apply BitVec.eq_of_toNat_eq
  rw [BitVec.extractLsb'_toNat, BitVec.toNat_ofNat, BitVec.toNat_ofNat, Nat.shiftRight_zero]
  omega

/-- R147: `RES_RTT_HI`, the high half of the 64-bit difference. -/
theorem extractLsb'_high_ofNat_64 (d : Nat) :
    (BitVec.ofNat 64 d).extractLsb' 32 32 = BitVec.ofNat 32 (d / 2 ^ 32) := by
  apply BitVec.eq_of_toNat_eq
  rw [BitVec.extractLsb'_toNat, BitVec.toNat_ofNat, BitVec.toNat_ofNat, Nat.shiftRight_eq_div_pow]
  omega

/-- A test that two bit vectors differ, as the statements write it. -/
theorem bne_eq_decide_ne {n : Nat} (x y : BitVec n) : (x != y) = decide (x ≠ y) := by
  rw [bne, beq_eq_decide, decide_not]

/-- R140, R149: the three reads of a reply whose bytes are written. -/
theorem readReply_of_written {m : Memory} {len : Nat} {first ttl : Byte} {icmp : List Byte}
    (hfirst : rxByte m 0 = .ok first) (httl : rxByte m 8 = .ok ttl)
    (hicmp : rxRange m Config.ipHdrLen (len - Config.ipHdrLen) = .ok icmp) :
    readReply m len = .ok ⟨first, ttl, icmp⟩ := by
  rw [readReply, hfirst, httl, hicmp]

/-! ## The command -/

section Checked

variable {s : State} {len : Half} (hvalid : s.txValid = true) (hcap : len.toNat ≤ s.rxcap.toNat)
  (htime : s.timeUsec.toNat < 1000000)

include hvalid hcap htime

/-- R151: past its checks, a `PARSE` of less than 28 bytes reads no byte of `RX`. -/
theorem execParse_of_short (hlen : len.toNat < 28) :
    execParse len s = .next (s.setResult (shortResult s.seqLast)).completeCmd := by
  rw [execParse, if_neg (by simp [hvalid]), if_neg (not_lt.2 hcap), if_neg (not_le.2 htime), if_pos hlen]

/-- R149: past its checks, a `PARSE` of a reply whose bytes are written. -/
theorem execParse_of_readReply_ok {r : ReplyBytes} (hlen : 28 ≤ len.toNat) (hr : readReply s.mem len.toNat = .ok r) :
    execParse len s = .next (s.setResult (replyResult s len r)).completeCmd := by
  rw [execParse, if_neg (by simp [hvalid]), if_neg (not_lt.2 hcap), if_neg (not_le.2 htime), if_neg (not_lt.2 hlen), hr]

end Checked

/-- Settles O49: the reads succeed, and each field of the result is the statement's. -/
theorem replyGivesTheOkResult : Obligations.ReplyGivesTheOkResult := by
  unfold Obligations.ReplyGivesTheOkResult
  intro s len first ttl icmp hvalid hlen hcap htime hfirst httl hicmpLen hicmp
  have hreply : readReply s.mem len.toNat = .ok ⟨first, ttl, icmp⟩ :=
    readReply_of_written (rxByte_ok.2 hfirst) (rxByte_ok.2 httl)
      (rxRange_of_holdsAt s 0x10014 (len.toNat - 20) icmp (by decide) hicmpLen hicmp)
  rw [exec, execParse_of_readReply_ok hvalid hcap htime hlen hreply, completeCmd_setResult]
  simp only [replyResult, rttMicros_eq, replyFlags, extractLsb'_low_ofNat_64, extractLsb'_high_ofNat_64,
    bne_eq_decide_ne, be16At, be16, byteAt, Config.ipHdrLen]

/-- Settles O48: past its checks, the length alone decides. -/
theorem shortReplyGivesTheShortResult : Obligations.ShortReplyGivesTheShortResult := by
  unfold Obligations.ShortReplyGivesTheShortResult
  intro s len hvalid hcap htime hlen
  rw [exec, execParse_of_short hvalid hcap htime hlen, completeCmd_setResult]
  rfl

end Sys2Proof.Machine
end

section
/-! Session control (R170 to R172): all that `SESSION` and `END` change where they complete. -/

namespace Sys2Proof.Machine

/-- R171, R202: a started session leaves `TX`, `RX`, `CK_SUM`, `CK_RESULT`, the send time and the sticky bits. -/
theorem completeCmd_openSession (s : State) (id : Half) :
    (s.openSession id).completeCmd =
      { s with
        ident := id, seqLast := 0, tsSecLast := 0, tsUsecLast := 0, res := ProbeResult.cleared,
        sact := true, txValid := false, lastErr := .ok } := rfl

/-- R172, R202: an ended session keeps its identifier, its latched header state and its last result. -/
theorem completeCmd_closeSession (s : State) :
    s.closeSession.completeCmd = { s with sact := false, txValid := false, lastErr := .ok } := rfl

/-- Settles O30: each of the three commands has one path, which completes. -/
theorem sessionControlCompletesInEveryState : Obligations.SessionControlCompletesInEveryState := by
  unfold Obligations.SessionControlCompletesInEveryState
  intro s id
  refine ⟨?nop, ?session, ?endSession⟩
  case nop => rw [exec, execNop, State.completeCmd]
  case session => rw [exec, execSession, completeCmd_openSession, ProbeResult.cleared, ResFlags.clear]
  case endSession => rw [exec, execEnd, completeCmd_closeSession]

end Sys2Proof.Machine
end

section
/-! The host's buffer accesses (R181 to R186), said once for the three widths: what `busRead` and `busWrite` do with an
access that is a bus error and with one that lies in `TX` or in `RX`. -/

namespace Sys2Proof.Machine

/-! ## The access -/

/-- R24, R51: the last register is at 0x58. -/
theorem Reg.offset_le (r : Reg) : r.offset ≤ 0x58 := by
  cases r <;> decide

/-- R51, R205: a narrow access to the register window is a bus error. -/
theorem not_inRegWindow_of_narrow {n a : Nat} {cap : Half} (hn : n ≠ 4) (hacc : accessError n a cap = none) :
    ¬ inRegWindow a := by
  intro hreg
  rw [accessError] at hacc
  split at hacc
  · cases hacc
  · rw [if_pos ⟨hn, hreg⟩] at hacc
    cases hacc

/-- R54: a byte access is always aligned, so in a buffer it has no bus error. -/
theorem accessError_byte_of_buffer {a : Nat} {cap : Half} (h : inTxWindow a ∨ inRxWindow cap a) :
    accessError 1 a cap = none := by
  have hreg : ¬ inRegWindow a := by
    rcases h with h | h <;> omega
  have hmapped : ∀ k < 1, byteMapped cap (a + k) := by
    intro k hk
    rw [Nat.lt_one_iff.1 hk]
    exact .inr h
  rw [accessError, if_neg (not_not.2 (Nat.mod_one a)), if_neg (fun hsize => hreg hsize.2), if_pos hmapped]

/-- R57: a range of `TX` that memory holds is read as its bytes. -/
theorem txRange_of_holdsAt {m : Memory} {a : Nat} {bs : List Byte} (ha : 0x1000 ≤ a) (h : holdsAt m a bs) :
    txRange m (a - 0x1000) bs.length = bs := by
  refine List.ext_getElem (txRange_length m _ _) fun k _ hk => ?_
  have hread : Memory.read m (Config.txBase + (a - 0x1000 + k)) = some bs[k] := by
    rw [← Nat.add_assoc, Nat.add_sub_cancel' ha, h k hk, List.getElem?_eq_getElem hk]
  rw [← Option.some_inj, ← List.getElem?_eq_getElem, txRange_getElem? m _ _ k hk, txByte, hread, Option.getD_some]

/-- R51: the word access at the offset of a register decodes to it. -/
theorem decodeAddr_of_offset {addr : Word} {r : Reg} (h : addr.toNat = r.offset) (cap : Half) :
    decodeAddr 4 addr cap = .ok (.reg r) := by
  rw [← decodeAddr_reg r cap, ← h, BitVec.ofNat_toNat, BitVec.setWidth_eq]

/-- R183: a word read at the offset of a register. -/
theorem busRead_of_offset {addr : Word} {r : Reg} {s : State} {pack : List Byte → Response} {onReg : Reg → Outcome}
    (h : addr.toNat = r.offset) : busRead 4 addr s pack onReg = onReg r := by
  rw [busRead, busAccess, decodeAddr_of_offset h]

section Width

variable {n : Nat} {addr : Word} {s : State} (hn : n = 1 ∨ n = 2 ∨ n = 4)

include hn

/-- R56: an access that has no bus error and is of no register lies in one of the buffers. -/
theorem decodeAddr_buffer (hacc : accessError n addr.toNat s.rxcap = none) (hreg : ¬ inRegWindow addr.toNat) :
    (decodeAddr n addr s.rxcap = .ok (.tx (addr.toNat - 0x1000)) ∧
      0x1000 ≤ addr.toNat ∧ addr.toNat + n ≤ 0x1040) ∨
    (decodeAddr n addr s.rxcap = .ok (.rx (addr.toNat - 0x10000)) ∧ 0x10000 ≤ addr.toNat) := by
  rcases (decodeAddr_spec hn addr s.rxcap).2 hacc with ⟨r, -, -, hoff⟩ | htx | ⟨hdec, hlo, -⟩
  · have := r.offset_le
    omega
  · exact .inl htx
  · exact .inr ⟨hdec, hlo⟩

/-! ## Reads -/

section Read

variable {pack : List Byte → Response} {onReg : Reg → Outcome}

/-- R204: a read that is a bus error. -/
theorem busRead_of_accessError {c : BusCause} (hacc : accessError n addr.toNat s.rxcap = some c) :
    busRead n addr s pack onReg = .next (s.raiseBusError c) := by
  rw [busRead, busAccess, (decodeAddr_spec hn addr s.rxcap).1 c hacc]

/-- R181 to R183: a read of a buffer answers the bytes that memory holds there. -/
theorem busRead_of_holdsAt {bs : List Byte} (hacc : accessError n addr.toNat s.rxcap = none)
    (hreg : ¬ inRegWindow addr.toNat) (hlen : bs.length = n) (h : holdsAt s.mem addr.toNat bs) :
    busRead n addr s pack onReg = .next (s.respond (pack bs)) := by
  rw [busRead, busAccess]
  rcases decodeAddr_buffer hn hacc hreg with ⟨hdec, hlo, -⟩ | ⟨hdec, hlo⟩
  · have hbytes : txRange s.mem (addr.toNat - 0x1000) n = bs := hlen ▸ txRange_of_holdsAt hlo h
    simp only [hdec, hbytes]
  · simp only [hdec, rxRange_of_holdsAt s addr.toNat n bs hlo hlen h]

/-- R41, R207: a read of a buffer that meets a byte not written is in `RX`, and faults at the first such byte. -/
theorem busRead_of_first_unwritten {k : Nat} (hacc : accessError n addr.toNat s.rxcap = none)
    (hreg : ¬ inRegWindow addr.toNat) (hk : k < n) (hnone : Memory.read s.mem (addr.toNat + k) = none)
    (hfirst : ∀ j < k, Memory.read s.mem (addr.toNat + j) ≠ none) :
    0x10000 ≤ addr.toNat ∧ busRead n addr s pack onReg = .fault (.unwritten (addr.toNat + k - 0x10000)) := by
  rw [busRead, busAccess]
  rcases decodeAddr_buffer hn hacc hreg with ⟨-, hlo, hhi⟩ | ⟨hdec, hlo⟩
  · have hwritten := Memory.read_tx_isSome s.mem (i := addr.toNat + k - 0x1000)
      (by simp only [Config.txLen]; omega)
    rw [Nat.add_sub_cancel' (hlo.trans (Nat.le_add_right _ k)), hnone] at hwritten
    cases hwritten
  · refine ⟨hlo, ?_⟩
    simp only [hdec, rxRange_of_first_unwritten s addr.toNat n k hlo hk hnone hfirst]

end Read

/-! ## Writes -/

section Write

variable {bs : List Byte} {onReg : Reg → Outcome}

/-- R204: a write that is a bus error. -/
theorem busWrite_of_accessError {c : BusCause} (hacc : accessError n addr.toNat s.rxcap = some c) :
    busWrite n addr s bs onReg = .next (s.raiseBusError c) := by
  rw [busWrite, busAccess, (decodeAddr_spec hn addr s.rxcap).1 c hacc]

/-- R52: `TX` is read-only to the host. -/
theorem busWrite_of_inTxWindow (hacc : accessError n addr.toNat s.rxcap = none) (htx : inTxWindow addr.toNat) :
    busWrite n addr s bs onReg = .next (s.raiseBusError .readOnly) := by
  rw [busWrite, busAccess]
  rcases decodeAddr_buffer hn hacc (by omega) with ⟨hdec, -⟩ | ⟨-, hlo⟩
  · rw [hdec]
  · omega

/-- R41: a write to `RX` is a write of memory and the answer `Ok`. -/
theorem busWrite_of_inRxWindow (hacc : accessError n addr.toNat s.rxcap = none)
    (hrx : inRxWindow s.rxcap addr.toNat) :
    busWrite n addr s bs onReg = .next ((s.memWrite addr.toNat bs).respond .done) := by
  rw [busWrite, busAccess]
  rcases decodeAddr_buffer hn hacc (by omega) with ⟨-, -, hhi⟩ | ⟨hdec, -⟩
  · omega
  · rw [hdec]

/-- R57, R184 to R186: a write to `RX` changes memory alone, in which it stores its bytes and no other. -/
theorem busWrite_stores (hacc : accessError n addr.toNat s.rxcap = none) (hrx : inRxWindow s.rxcap addr.toNat) :
    ∃ m, busWrite n addr s bs onReg = .next { s with mem := m, responses := s.responses ++ [.done] } ∧
      holdsAt m addr.toNat bs ∧
      ∀ a, a < addr.toNat ∨ addr.toNat + bs.length ≤ a → Memory.read m a = Memory.read s.mem a :=
  ⟨Memory.writeBytes s.mem addr.toNat bs, busWrite_of_inRxWindow hn hacc hrx, holdsAt_writeBytes _ _ _,
    Memory.read_writeBytes_outside bs s.mem addr.toNat⟩

end Write

end Width

/-! ## The transactions of each width -/

/-- R180: data that fits is not refused. -/
theorem refuseWide_of_fits {n : Nat} {data : Word} (o : Outcome) (h : data.toNat < 2 ^ (8 * n)) :
    refuseWide n data o = o :=
  if_pos (decide_eq_true h)

/-- R12: the two low bytes of a word, the more significant first. -/
theorem bytesBe16_low (data : Word) :
    bytesBe16 (data.extractLsb' 0 16) = [data.extractLsb' 8 8, data.extractLsb' 0 8] := by
  rw [bytesBe16, BitVec.extractLsb'_extractLsb'_of_le (by decide), BitVec.extractLsb'_extractLsb'_of_le (by decide)]

/-- R184: `WR8` of data that fits is a bus write of its byte. -/
theorem exec_wr8_of_fits (addr : Word) {data : Word} (s : State) (h : data.toNat < 2 ^ 8) :
    exec (.wr8 addr data) s = busWrite 1 addr s [data.extractLsb' 0 8] (narrowReg s) := by
  rw [exec, execWr8, refuseWide_of_fits _ h]

/-- R185: `WR16` of data that fits is a bus write of its two bytes, big-endian. -/
theorem exec_wr16_of_fits (addr : Word) {data : Word} (s : State) (h : data.toNat < 2 ^ 16) :
    exec (.wr16 addr data) s =
      busWrite 2 addr s [data.extractLsb' 8 8, data.extractLsb' 0 8] (narrowReg s) := by
  rw [exec, execWr16, refuseWide_of_fits _ h, bytesBe16_low]

/-- R57: the half of two bytes read. -/
theorem be16At_pair (x y : Byte) : be16At [x, y] 0 = x ++ y := rfl

/-- R57: the word of four bytes read. -/
theorem be32At_quad (a b c d : Byte) : be32At [a, b, c, d] 0 = a ++ b ++ c ++ d := rfl

/-- Settles O23: the bus read of one byte, which no register answers. -/
theorem readByteAnswersTheByte : Obligations.ReadByteAnswersTheByte := by
  unfold Obligations.ReadByteAnswersTheByte
  intro s addr
  rw [exec, execRd8]
  refine ⟨fun c hacc => busRead_of_accessError (.inl rfl) hacc, fun b hacc hread => ?_, fun hacc hnone => ?_⟩
  · have hholds : holdsAt s.mem addr.toNat [b] := by
      intro k hk
      rw [Nat.lt_one_iff.1 hk]
      exact hread
    exact busRead_of_holdsAt (.inl rfl) hacc (not_inRegWindow_of_narrow (by decide) hacc) rfl hholds
  · exact busRead_of_first_unwritten (.inl rfl) hacc (not_inRegWindow_of_narrow (by decide) hacc) (k := 0)
      (by decide) hnone (fun j hj => absurd hj (Nat.not_lt_zero j))

/-- Settles O24: the bus read of two bytes, which no register answers. -/
theorem readHalfAnswersTwoBytesBigEndian : Obligations.ReadHalfAnswersTwoBytesBigEndian := by
  unfold Obligations.ReadHalfAnswersTwoBytesBigEndian
  intro s addr
  rw [exec, execRd16]
  refine ⟨fun c hacc => busRead_of_accessError (.inr (.inl rfl)) hacc, fun x y hacc hholds => ?_,
    fun k hk hacc hnone hfirst => ?_⟩
  · rw [busRead_of_holdsAt (.inr (.inl rfl)) hacc (not_inRegWindow_of_narrow (by decide) hacc) rfl hholds,
      be16At_pair, State.respond]
  · exact busRead_of_first_unwritten (.inr (.inl rfl)) hacc (not_inRegWindow_of_narrow (by decide) hacc) hk hnone
      hfirst

/-- Settles O25: the register at its offset, else the bus read of four bytes. -/
theorem readWordAnswersARegisterOrFourBytesBigEndian : Obligations.ReadWordAnswersARegisterOrFourBytesBigEndian := by
  unfold Obligations.ReadWordAnswersARegisterOrFourBytesBigEndian
  intro s addr
  rw [exec, execRd32]
  refine ⟨fun c hacc => busRead_of_accessError (.inr (.inr rfl)) hacc, fun r hoff => busRead_of_offset hoff,
    fun a b c d hacc hreg hholds => ?_, fun k hk hacc hreg hnone hfirst => ?_⟩
  · rw [busRead_of_holdsAt (.inr (.inr rfl)) hacc hreg rfl hholds, be32At_quad, State.respond]
  · exact busRead_of_first_unwritten (.inr (.inr rfl)) hacc hreg hk hnone hfirst

/-- Settles O26: the bus write of one byte, which in a buffer has no bus error. -/
theorem writeByteStoresTheByte : Obligations.WriteByteStoresTheByte := by
  unfold Obligations.WriteByteStoresTheByte
  intro s addr data hfits
  rw [exec_wr8_of_fits addr s hfits]
  refine ⟨fun c hacc => busWrite_of_accessError (.inl rfl) hacc, fun htx => ?_, fun hrx => ?_⟩
  · exact busWrite_of_inTxWindow (.inl rfl) (accessError_byte_of_buffer (.inl htx)) htx
  · obtain ⟨m, hexec, hholds, hother⟩ := busWrite_stores (.inl rfl) (accessError_byte_of_buffer (.inr hrx)) hrx
    exact ⟨m, hexec, hholds, fun a ha => hother a (Nat.lt_or_gt_of_ne ha)⟩

/-- Settles O27: the bus write of two bytes. -/
theorem writeHalfStoresTwoBytesBigEndian : Obligations.WriteHalfStoresTwoBytesBigEndian := by
  unfold Obligations.WriteHalfStoresTwoBytesBigEndian
  intro s addr data hfits
  rw [exec_wr16_of_fits addr s hfits]
  exact ⟨fun c hacc => busWrite_of_accessError (.inr (.inl rfl)) hacc,
    fun hacc htx => busWrite_of_inTxWindow (.inr (.inl rfl)) hacc htx,
    fun hacc hrx => busWrite_stores (.inr (.inl rfl)) hacc hrx⟩

end Sys2Proof.Machine
end

section
/-! Bus errors (R204, R205): each transaction that the decoder accepts is a bus read or a bus write of its width, and
the first cause that applies is the one answered. -/

namespace Sys2Proof.Machine

/-! ## The transaction -/

/-- R9: a step with a transaction to take runs it. -/
theorem step_of_request {s : State} {r : BusRequest} {rest : List HostEvent} (h : s.pending = .request r :: rest) :
    step s = runRequest r (s.takeEvent rest) := by
  rw [step, runNext, h]
  rfl

theorem runRequest_of_decodeRequest_ok {r : BusRequest} {i : Instr} (h : decodeRequest r = .ok i) (s : State) :
    runRequest r s = exec i s := by
  rw [runRequest, h]

/-- R187: a reserved code answers its cause before the address is looked at. -/
theorem runRequest_of_badCode {r : BusRequest} (h : decodeRequest r = .error .badCode) (s : State) :
    runRequest r s = .next (s.raiseBusError .badCode) := by
  rw [runRequest, h]

/-- R78: the table of R74 has no row for a reserved code. -/
theorem decodeRequest_of_reservedCode {r : BusRequest} (h : reservedCode r.tc) : decodeRequest r = .error .badCode := by
  have hcodes : ∀ tc : BitVec 4, reservedCode tc → tc.toNat ≠ 0 ∧ tc.toNat ≠ 1 ∧ tc.toNat ≠ 2 ∧ tc.toNat ≠ 8 ∧
      tc.toNat ≠ 9 ∧ tc.toNat ≠ 10 := by decide
  obtain ⟨h0, h1, h2, h8, h9, h10⟩ := hcodes r.tc h
  unfold decodeRequest
  split
  case h_7 => rfl
  all_goals contradiction

/-- R72: the widths of the codes that are not reserved. -/
theorem codeWidth_of_not_reservedCode : ∀ {tc : BitVec 4}, ¬ reservedCode tc →
    codeWidth tc = 1 ∨ codeWidth tc = 2 ∨ codeWidth tc = 4 := by decide

theorem withData_of_ne_dataTooWide {n : Nat} {data : Word} {i : Instr} (h : withData n data i ≠ .error .dataTooWide) :
    withData n data i = .ok i ∧ data.toNat < 2 ^ (8 * n) := by
  by_cases hfits : dataFits n data = true
  · exact ⟨if_pos hfits, of_decide_eq_true hfits⟩
  · exact absurd (if_neg hfits) h

/-- R74, R180: the transaction of each code that is not reserved. -/
theorem decodeRequest_of_not_reservedCode {r : BusRequest} (hcode : ¬ reservedCode r.tc)
    (hfits : decodeRequest r ≠ .error .dataTooWide) :
    (r.tc = 0b0000 ∧ decodeRequest r = .ok (.rd8 r.addr)) ∨
    (r.tc = 0b0001 ∧ decodeRequest r = .ok (.rd16 r.addr)) ∨
    (r.tc = 0b0010 ∧ decodeRequest r = .ok (.rd32 r.addr)) ∨
    (r.tc = 0b1000 ∧ decodeRequest r = .ok (.wr8 r.addr r.wdata) ∧ r.wdata.toNat < 2 ^ 8) ∨
    (r.tc = 0b1001 ∧ decodeRequest r = .ok (.wr16 r.addr r.wdata) ∧ r.wdata.toNat < 2 ^ 16) ∨
    (r.tc = 0b1010 ∧ decodeRequest r = .ok (.wr32 r.addr r.wdata)) := by
  have hcodes : ∀ tc : BitVec 4, ¬ reservedCode tc →
      tc = 0b0000 ∨ tc = 0b0001 ∨ tc = 0b0010 ∨ tc = 0b1000 ∨ tc = 0b1001 ∨ tc = 0b1010 := by decide
  obtain ⟨tc, addr, data⟩ := r
  rcases hcodes tc hcode with rfl | rfl | rfl | rfl | rfl | rfl
  · exact .inl ⟨rfl, rfl⟩
  · exact .inr (.inl ⟨rfl, rfl⟩)
  · exact .inr (.inr (.inl ⟨rfl, rfl⟩))
  · exact .inr (.inr (.inr (.inl ⟨rfl, withData_of_ne_dataTooWide hfits⟩)))
  · exact .inr (.inr (.inr (.inr (.inl ⟨rfl, withData_of_ne_dataTooWide hfits⟩))))
  · exact .inr (.inr (.inr (.inr (.inr ⟨rfl, rfl⟩))))

/-- R74, R181 to R186: a transaction that runs is a bus read or a bus write of its width, as bit 3 of its code says; a
word write to a register is `writeReg`'s. -/
theorem runRequest_eq_busRead_or_busWrite {r : BusRequest} (hcode : ¬ reservedCode r.tc)
    (hfits : decodeRequest r ≠ .error .dataTooWide) (s : State) :
    (r.tc.getLsbD 3 = false ∧ ∃ pack onReg, runRequest r s = busRead (codeWidth r.tc) r.addr s pack onReg) ∨
    (∃ bs onReg, runRequest r s = busWrite (codeWidth r.tc) r.addr s bs onReg ∧
      (codeWidth r.tc = 4 → onReg = writeReg r.wdata s)) := by
  rcases decodeRequest_of_not_reservedCode hcode hfits with ⟨htc, hdec⟩ | ⟨htc, hdec⟩ | ⟨htc, hdec⟩ |
      ⟨htc, hdec, hdata⟩ | ⟨htc, hdec, hdata⟩ | ⟨htc, hdec⟩ <;>
    rw [runRequest_of_decodeRequest_ok hdec, htc]
  · rw [exec, execRd8]
    exact .inl ⟨rfl, _, _, rfl⟩
  · rw [exec, execRd16]
    exact .inl ⟨rfl, _, _, rfl⟩
  · rw [exec, execRd32]
    exact .inl ⟨rfl, _, _, rfl⟩
  · exact .inr ⟨_, _, exec_wr8_of_fits r.addr s hdata, fun h4 => absurd h4 (by decide)⟩
  · exact .inr ⟨_, _, exec_wr16_of_fits r.addr s hdata, fun h4 => absurd h4 (by decide)⟩
  · exact .inr ⟨_, _, rfl, fun _ => rfl⟩

/-! ## Writes to a read-only address -/

/-- R28, R186: the registers but `CMD`, `TIME_SEC` and `TIME_USEC` are read-only. -/
theorem writeReg_of_read_only {r : Reg} (hcmd : r ≠ .cmd) (hsec : r ≠ .timeSec) (husec : r ≠ .timeUsec) (data : Word)
    (s : State) : writeReg data s r = .next (s.raiseBusError .readOnly) := by
  cases r with
  | cmd => contradiction
  | timeSec => contradiction
  | timeUsec => contradiction
  | _ => rfl

/-- R205, priority 5: a write that has no earlier cause, at an address the host may not write. A register is reached by
a word access only. -/
theorem busWrite_of_readOnlyAt {n : Nat} {addr data : Word} {s : State} {bs : List Byte} {onReg : Reg → Outcome}
    (hn : n = 1 ∨ n = 2 ∨ n = 4) (hacc : accessError n addr.toNat s.rxcap = none) (hro : readOnlyAt addr.toNat)
    (honReg : n = 4 → onReg = writeReg data s) : busWrite n addr s bs onReg = .next (s.raiseBusError .readOnly) := by
  rcases hro with htx | ⟨hreg, hcmd, hsec, husec⟩
  · exact busWrite_of_inTxWindow hn hacc htx
  · rcases (decodeAddr_spec hn addr s.rxcap).2 hacc with ⟨r, hdec, h4, hoff⟩ | ⟨-, hlo, -⟩ | ⟨-, hlo, -⟩
    · rw [hoff] at hcmd hsec husec
      rw [busWrite, busAccess, hdec, honReg h4]
      exact writeReg_of_read_only (ne_of_apply_ne Reg.offset hcmd) (ne_of_apply_ne Reg.offset hsec)
        (ne_of_apply_ne Reg.offset husec) data s
    · omega
    · omega

/-! ## The first cause -/

/-- R205: the three places a transaction's bus error comes from. -/
theorem firstBusError_some {r : BusRequest} {cap : Half} {c : BusCause} (h : firstBusError r cap = some c) :
    (reservedCode r.tc ∧ c = .badCode) ∨
    (¬ reservedCode r.tc ∧ accessError (codeWidth r.tc) r.addr.toNat cap = some c) ∨
    (¬ reservedCode r.tc ∧ accessError (codeWidth r.tc) r.addr.toNat cap = none ∧
      r.tc.getLsbD 3 = true ∧ readOnlyAt r.addr.toNat ∧ c = .readOnly) := by
  unfold firstBusError at h
  split at h
  · next hcode => cases h; exact .inl ⟨hcode, rfl⟩
  · next hcode =>
    split at h
    · next c' hacc => cases h; exact .inr (.inl ⟨hcode, hacc⟩)
    · next hacc =>
      split at h
      · next hwrite => cases h; exact .inr (.inr ⟨hcode, hacc, hwrite.1, hwrite.2, rfl⟩)
      · cases h

/-- R204, R205: a transaction that has a bus error raises the first cause that applies. -/
theorem runRequest_of_firstBusError {r : BusRequest} {s : State} {c : BusCause}
    (hfits : decodeRequest r ≠ .error .dataTooWide) (h : firstBusError r s.rxcap = some c) :
    runRequest r s = .next (s.raiseBusError c) := by
  rcases firstBusError_some h with ⟨hcode, rfl⟩ | ⟨hcode, hacc⟩ | ⟨hcode, hacc, hbit, hro, rfl⟩
  · exact runRequest_of_badCode (decodeRequest_of_reservedCode hcode) s
  · have hn := codeWidth_of_not_reservedCode hcode
    rcases runRequest_eq_busRead_or_busWrite hcode hfits s with ⟨-, pack, onReg, hrun⟩ | ⟨bs, onReg, hrun, -⟩
    · exact hrun.trans (busRead_of_accessError hn hacc)
    · exact hrun.trans (busWrite_of_accessError hn hacc)
  · rcases runRequest_eq_busRead_or_busWrite hcode hfits s with ⟨hread, -⟩ | ⟨bs, onReg, hrun, honReg⟩
    · rw [hbit] at hread
      cases hread
    · exact hrun.trans (busWrite_of_readOnlyAt (codeWidth_of_not_reservedCode hcode) hacc hro honReg)

/-- Settles O8: the step takes the event, and the transaction raises the first cause that applies. -/
theorem busErrorIsTheFirstCauseAndChangesNothingElse :
    Obligations.BusErrorIsTheFirstCauseAndChangesNothingElse := by
  unfold Obligations.BusErrorIsTheFirstCauseAndChangesNothingElse
  intro s r rest c hpending hfits hfirst
  rw [step_of_request hpending, runRequest_of_firstBusError hfits (s := s.takeEvent rest) hfirst]
  rfl

end Sys2Proof.Machine
end

section
/-! The sticky bits (R206): what each effect, and so each step, does to the command error and to the bus error that
`STATUS` records. -/

namespace Sys2Proof.Machine

/-- R201, R202, R206: between `s` and `t` a command error was recorded, or `ERRSEEN` is kept and `LASTERR` is kept or
cleared. -/
def CmdErrorRecorded (s t : State) : Prop :=
  (t.errSeen = true ∧ t.lastErr ≠ .ok) ∨ (t.errSeen = s.errSeen ∧ (t.lastErr = s.lastErr ∨ t.lastErr = .ok))

/-- R204, R206: between `s` and `t` a bus error was answered and recorded, or `BUSERRSEEN` is kept and none was
answered. -/
def BusErrorRecorded (s t : State) : Prop :=
  (∃ c, t.busErrSeen = true ∧ t.responses = s.responses ++ [.busError c]) ∨
    (t.busErrSeen = s.busErrSeen ∧ ∀ c, t.responses ≠ s.responses ++ [.busError c])

/-! ## The command error -/

/-- R201: the codes a command raises are not `OK`. -/
theorem CmdErrorRecorded.of_raiseCmdError (s : State) {code : ErrCode} (h : code ≠ .ok) :
    CmdErrorRecorded s (s.raiseCmdError code) := .inl ⟨rfl, h⟩

/-- R202: a command that completes clears `LASTERR` alone. -/
theorem CmdErrorRecorded.of_completeCmd {s t : State} (h : t.errSeen = s.errSeen) : CmdErrorRecorded s t.completeCmd :=
  .inr ⟨h, .inr rfl⟩

theorem CmdErrorRecorded.of_eq {s t : State} (hseen : t.errSeen = s.errSeen) (hlast : t.lastErr = s.lastErr) :
    CmdErrorRecorded s t := .inr ⟨hseen, .inl hlast⟩

/-- R25, R186: the `WR32` that carries a command adds the stored word and the answer. -/
theorem CmdErrorRecorded.of_carried {s t : State} {w : Word} {a : Response} (h : CmdErrorRecorded (s.storeCmd w) t) :
    CmdErrorRecorded s (t.respond a) := h

/-- R201, R202: a command records its error or completes, and a transaction that runs none leaves both fields. -/
theorem Effect.cmdErrorRecorded {i : Instr} {s t : State} (h : Effect i s t) : CmdErrorRecorded s t := by
  induction h with
  | nop | session | endSession | build | parseShort | parseOk | cksum | cktx => exact .of_completeCmd (by simp)
  | buildState | buildTime | parseState | parseLen | parseTime | cksumLen => exact .of_raiseCmdError _ (by decide)
  | illegal => exact .of_carried (.of_raiseCmdError _ (by decide))
  | command _ _ _ _ _ _ _ _ ih => exact .of_carried ih
  | _ => exact .of_eq rfl rfl

/-! ## The bus error -/

theorem BusErrorRecorded.of_raiseBusError (s : State) (c : BusCause) : BusErrorRecorded s (s.raiseBusError c) :=
  .inl ⟨c, rfl, rfl⟩

theorem BusErrorRecorded.of_not_answered {s t : State} (hseen : t.busErrSeen = s.busErrSeen)
    (hresp : t.responses = s.responses) : BusErrorRecorded s t :=
  .inr ⟨hseen, fun c h => by simp [hresp] at h⟩

theorem BusErrorRecorded.of_respond {s t : State} {a : Response} (hseen : t.busErrSeen = s.busErrSeen)
    (hresp : t.responses = s.responses) (ha : ∀ c, a ≠ .busError c) : BusErrorRecorded s (t.respond a) :=
  .inr ⟨hseen, fun c h => ha c (by simpa [hresp] using h)⟩

/-- R201 to R203: a command's own meaning raises no bus error and answers nothing. -/
theorem Effect.command_leaves_bus {i : Instr} {s t : State} (hi : i.isCommand = true) (h : Effect i s t) :
    t.busErrSeen = s.busErrSeen ∧ t.responses = s.responses := by
  cases h with
  | nop | session | endSession | build | buildState | buildTime | parseState | parseLen | parseTime | parseShort
  | parseOk | cksumLen | cksum | cktx => simp
  | _ => cases hi

/-- R204: a transaction is answered a bus error exactly where it raises one. -/
theorem Effect.busErrorRecorded {i : Instr} {s t : State} (h : Effect i s t) : BusErrorRecorded s t := by
  by_cases hi : i.isCommand = true
  · obtain ⟨hseen, hresp⟩ := h.command_leaves_bus hi
    exact .of_not_answered hseen hresp
  · cases h with
    | rd8 | rd16 | rd32 | wr8 | wr16 | wr32 | timeSec | timeUsec | illegal => exact .of_respond (by simp) (by simp) nofun
    | rd8Error | rd16Error | rd32Error | wr8Error | wr16Error | wr32Error => exact .of_raiseBusError _ _
    | command _ _ _ _ t _ hdec heff =>
      obtain ⟨hseen, hresp⟩ := heff.command_leaves_bus (decodeCommand_isCommand hdec)
      exact .of_respond hseen hresp nofun
    | _ => exact absurd rfl hi

/-! ## The step -/

/-- R206, R230: a step takes a reset, or changes the sticky bits only as the two rules say. -/
theorem step_reset_or_errors_recorded {s t : State} (h : step s = .next t) :
    (∃ rest, s.pending = .reset :: rest ∧ t = (s.takeEvent rest).applyReset) ∨
      (CmdErrorRecorded s t ∧ BusErrorRecorded s t) := by
  rcases step_effect h with ⟨-, rfl⟩ | ⟨e, rest, hpending, heff⟩
  · exact .inr ⟨.of_eq rfl rfl, .of_not_answered rfl rfl⟩
  · cases heff with
    | reset => exact .inl ⟨rest, hpending, rfl⟩
    | badCode => exact .inr ⟨.of_eq rfl rfl, .of_raiseBusError (s.takeEvent rest) .badCode⟩
    | run _ _ _ _ _ heff => exact .inr ⟨heff.cmdErrorRecorded, heff.busErrorRecorded⟩

/-- Settles O20: a step that takes no reset keeps each bit or sets it with its error, and a reset sets none and answers
nothing. -/
theorem stickyBitsAreClearedOnlyByReset : Obligations.StickyBitsAreClearedOnlyByReset := by
  unfold Obligations.StickyBitsAreClearedOnlyByReset
  intro s t hstep
  rcases step_reset_or_errors_recorded hstep with ⟨rest, hpending, rfl⟩ | ⟨herr, hbus⟩
  · refine ⟨nofun, fun hlast => absurd rfl hlast, nofun, fun c hresp => ?_, fun _ => ⟨rest, hpending⟩⟩
    simp at hresp
  · refine ⟨fun hset hclear => ?_, fun hnew hchanged => ?_, fun hset hclear => ?_, fun c hresp => ?_, fun hcleared => ?_⟩
    · rcases herr with ⟨-, hlast⟩ | ⟨hsame, -⟩
      · exact hlast
      · simp [hset, hclear] at hsame
    · rcases herr with ⟨hset, -⟩ | ⟨-, hsame | hok⟩
      · exact hset
      · exact absurd hsame hchanged
      · exact absurd hok hnew
    · rcases hbus with ⟨c, -, hresp⟩ | ⟨hsame, -⟩
      · exact ⟨c, hresp⟩
      · simp [hset, hclear] at hsame
    · rcases hbus with ⟨_, hset, -⟩ | ⟨-, hnone⟩
      · exact hset
      · exact absurd hresp (hnone c)
    · exfalso
      rcases hcleared with ⟨hset, hclear⟩ | ⟨hset, hclear⟩
      · rcases herr with ⟨hseen, -⟩ | ⟨hseen, -⟩ <;> simp [hset, hclear] at hseen
      · rcases hbus with ⟨_, hseen, -⟩ | ⟨hseen, -⟩ <;> simp [hset, hclear] at hseen

end Sys2Proof.Machine
end

section
/-! Hazards of session control (R246): what the commands that need a packet or a session do where there is none. -/

namespace Sys2Proof.Machine

/-- R149, R203: with no packet to answer, `PARSE` is `ESTATE`, whatever its length and the time operand. -/
theorem execParse_of_no_packet {s : State} {len : Half} (h : s.txValid = false) :
    execParse len s = .next (s.raiseCmdError .estate) := if_pos h

/-- Settles O32: `SESSION` and `END` leave no packet, and `END` leaves no session. -/
theorem parseAfterSessionOrEndIsEstate : Obligations.ParseAfterSessionOrEndIsEstate := by
  unfold Obligations.ParseAfterSessionOrEndIsEstate
  intro s id seq len
  have hopened : (s.openSession id).completeCmd.txValid = false := by simp
  have hclosed : s.closeSession.completeCmd.txValid = false := by simp
  have hinactive : s.closeSession.completeCmd.sact = false := by simp
  exact ⟨(s.openSession id).completeCmd, s.closeSession.completeCmd, rfl, rfl, hopened, hclosed,
    execParse_of_no_packet hopened, execParse_of_no_packet hclosed, execBuild_of_no_session hinactive⟩

end Sys2Proof.Machine
end

section
/-! Encoding (R70 to R74): the two decoders invert the encoder on the instructions of each encoded form, and accept
nothing that it does not make. -/

namespace Sys2Proof

/-! ## Decoding what is encoded -/

/-- R71 to R73: the word that encodes a command decodes to it. -/
theorem decodeCommand_of_encode {c : Instr} {w : Word} (h : encode c = .command w) : decodeCommand w = .ok c := by
  cases c with
  | nop | session | build | parse | cksum | cktx | endSession => cases h; simp [decodeCommand, withoutOperand]
  | rd8 | rd16 | rd32 | wr8 | wr16 | wr32 => cases h

/-- R74, R180: the request that encodes a transaction whose data fits decodes to it. -/
theorem decodeRequest_of_encode {i : Instr} {r : BusRequest} (hwf : i.wellFormed = true)
    (h : encode i = .request r) : decodeRequest r = .ok i := by
  cases i with
  | rd8 | rd16 | rd32 | wr32 => cases h; rfl
  | wr8 | wr16 => cases h; exact withData_ok.2 ⟨hwf, rfl⟩
  | nop | session | build | parse | cksum | cktx | endSession => cases h

theorem decode_command (w : Word) : decode (.command w) = (decodeCommand w).mapError .command := rfl

theorem decode_request (r : BusRequest) : decode (.request r) = (decodeRequest r).mapError .request := rfl

/-- Settles O1, by the encoded form that carries the instruction. -/
theorem decodeOfEncodeIsTheInstruction : Obligations.DecodeOfEncodeIsTheInstruction := by
  unfold Obligations.DecodeOfEncodeIsTheInstruction
  intro i hwf
  cases henc : encode i with
  | command w => rw [decode_command, decodeCommand_of_encode henc, Except.mapError]
  | request r => rw [decode_request, decodeRequest_of_encode hwf henc, Except.mapError]

/-! ## Encoding what is decoded -/

theorem mapError_eq_ok_iff {ε ε' α : Type} {f : ε → ε'} {x : Except ε α} {a : α} : x.mapError f = .ok a ↔ x = .ok a := by
  cases x <;> simp [Except.mapError]

/-- R180: an operand of a command is bounded by its type. -/
theorem wellFormed_of_isCommand {c : Instr} (h : c.isCommand = true) : c.wellFormed = true := by
  cases c with
  | nop | session | build | parse | cksum | cktx | endSession => rfl
  | rd8 | rd16 | rd32 | wr8 | wr16 | wr32 => cases h

/-- R74, R180: a request that decodes is the well-formed transaction it encodes, but for the data of a read. -/
theorem decodeRequest_ok {r : BusRequest} {i : Instr} (h : decodeRequest r = .ok i) :
    i.wellFormed = true ∧ i.isCommand = false ∧
      encode i = .request ⟨r.tc, r.addr, if r.tc.getLsbD 3 = true then r.wdata else 0⟩ := by
  have hcode : ¬ Machine.reservedCode r.tc := by
    intro hres
    rw [Machine.decodeRequest_of_reservedCode hres] at h
    cases h
  rcases Machine.decodeRequest_of_not_reservedCode hcode (by simp [h]) with
    ⟨htc, hdec⟩ | ⟨htc, hdec⟩ | ⟨htc, hdec⟩ | ⟨htc, hdec, hfits⟩ | ⟨htc, hdec, hfits⟩ | ⟨htc, hdec⟩ <;>
    obtain rfl := Except.ok.inj (h.symm.trans hdec) <;> rw [htc]
  · exact ⟨rfl, rfl, rfl⟩
  · exact ⟨rfl, rfl, rfl⟩
  · exact ⟨rfl, rfl, rfl⟩
  · exact ⟨decide_eq_true hfits, rfl, rfl⟩
  · exact ⟨decide_eq_true hfits, rfl, rfl⟩
  · exact ⟨rfl, rfl, rfl⟩

/-- Settles O2, for the command words by their fields and for the transactions by their codes. -/
theorem encodeOfDecodeIsTheEncoding : Obligations.EncodeOfDecodeIsTheEncoding := by
  unfold Obligations.EncodeOfDecodeIsTheEncoding
  refine ⟨fun w i h => ?_, fun r i h => ?_⟩
  · rw [decode_command, mapError_eq_ok_iff] at h
    have hcmd := decodeCommand_isCommand h
    exact ⟨wellFormed_of_isCommand hcmd, hcmd, encode_of_decodeCommand_ok h⟩
  · rw [decode_request, mapError_eq_ok_iff] at h
    exact decodeRequest_ok h

/-- Settles O3, by evaluating the two decoders. -/
theorem writtenOutWordsDecode : Obligations.WrittenOutWordsDecode := by
  unfold Obligations.WrittenOutWordsDecode
  decide

end Sys2Proof
end

section
/-! The step (R9, R180, R230): what it does with no event, with a reset, with a transaction that decodes and with one
whose data does not fit; and the command that a `WR32` to `CMD` carries. -/

namespace Sys2Proof.Machine

/-- Settles O5: the step takes the event and the decoder answers the instruction. -/
theorem stepRunsTheDecodedTransaction : Obligations.StepRunsTheDecodedTransaction := by
  unfold Obligations.StepRunsTheDecodedTransaction
  intro s r rest i hpending hdec
  rw [step_of_request hpending, runRequest_of_decodeRequest_ok hdec, State.takeEvent]

/-- R75: a word that decodes runs its command. -/
theorem execCommandWord_of_decodeCommand_ok {w : Word} {c : Instr} (h : decodeCommand w = .ok c) (s : State) :
    execCommandWord w s = exec c s := by
  rw [execCommandWord, h]
  exact runCommand_eq_exec (decodeCommand_isCommand h) s

/-- R75, R186: the `WR32` that carries a command answers what the command does on the stored word. -/
theorem exec_wr32_cmd_of_decodeCommand_ok {w : Word} {c : Instr} (h : decodeCommand w = .ok c) (s : State) :
    exec (.wr32 0 w) s = answerDone (exec c (s.storeCmd w)) := by
  rw [exec_wr32_cmd, execCommandWord_of_decodeCommand_ok h]

/-- Settles O6, by the outcome of the command. -/
theorem commandWriteStoresTheWordAndRunsTheCommand : Obligations.CommandWriteStoresTheWordAndRunsTheCommand := by
  unfold Obligations.CommandWriteStoresTheWordAndRunsTheCommand
  intro s w c hdec
  rw [exec_wr32_cmd_of_decodeCommand_ok hdec, ← State.storeCmd]
  refine ⟨fun t ht => ?_, fun f hf => ?_, execCommand_not_refused (decodeCommand_isCommand hdec) _⟩
  · rw [ht, answerDone, State.respond]
  · rw [hf, answerDone]

/-- The step after a row is placed runs the transaction that presents it, on the state before. -/
theorem step_withFetchWord (s : State) (nbits w : Nat) :
    step (s.withFetchWord nbits w) = runRequest (tableRequest nbits w) s :=
  step_of_request rfl

/-- What a number of a transaction row's bits decodes to. -/
theorem decodeRequest_of_decodeTableWord {nbits w : Nat} {i : Instr} (hbits : nbits ≤ 8)
    (h : decodeTableWord nbits w = some i) : decodeRequest (tableRequest nbits w) = .ok i := by
  rw [decodeTableWord, if_pos hbits] at h
  split at h
  · cases hdec : decodeRequest (tableRequest nbits w) with
    | ok j => rw [hdec] at h; cases h; rfl
    | error e => rw [hdec] at h; cases h
  · cases h

/-- What a number of a command row's bits decodes to. -/
theorem decodeCommand_of_decodeTableWord {nbits w : Nat} {c : Instr} (hbits : ¬ nbits ≤ 8)
    (h : decodeTableWord nbits w = some c) : decodeCommand (BitVec.ofNat 32 w) = .ok c := by
  rw [decodeTableWord, if_neg hbits] at h
  split at h
  · cases hdec : decodeCommand (BitVec.ofNat 32 w) with
    | ok j => rw [hdec] at h; cases h; rfl
    | error e => rw [hdec] at h; cases h
  · cases h

/-- R70 (b): a carried word is run as the `WR32` to `CMD` of it. -/
theorem runRequest_carry (w : Word) (s : State) : runRequest (carry w) s = exec (.wr32 0 w) s := rfl

/-- Settles O7: a transaction row is its own request, and a command row's request is the carrier of its word. -/
theorem placedRowRunsNext : Obligations.PlacedRowRunsNext := by
  unfold Obligations.PlacedRowRunsNext
  refine ⟨fun s w i h => ?_, fun s w c h => ?_⟩
  · rw [step_withFetchWord, runRequest_of_decodeRequest_ok (decodeRequest_of_decodeTableWord le_rfl h)]
  · have hdec := decodeCommand_of_decodeTableWord (by decide) h
    have hstep : step (s.withFetchWord 32 w) = exec (.wr32 0 (BitVec.ofNat 32 w)) s := by
      rw [step_withFetchWord, tableRequest, if_neg (by decide), runRequest_carry]
    refine ⟨hstep, fun t ht => ?_⟩
    rw [hstep]
    exact (commandWriteStoresTheWordAndRunsTheCommand s (BitVec.ofNat 32 w) c hdec).1 t ht

/-- R180: data that does not fit is refused. -/
theorem refuseWide_of_wide {n : Nat} {data : Word} (o : Outcome) (h : 2 ^ (8 * n) ≤ data.toNat) :
    refuseWide n data o = .refused .dataTooWide :=
  if_neg (by simpa [dataFits] using h)

theorem withData_of_wide {n : Nat} {data : Word} (i : Instr) (h : 2 ^ (8 * n) ≤ data.toNat) :
    withData n data i = .error .dataTooWide :=
  if_neg (by simpa [dataFits] using h)

/-- R180: a transaction whose data does not fit is refused before its address is looked at. -/
theorem runRequest_of_dataTooWide {r : BusRequest} (h : decodeRequest r = .error .dataTooWide) (s : State) :
    runRequest r s = .refused .dataTooWide := by
  rw [runRequest, h]

/-- Settles O9: the instruction and the decoder refuse the same data. -/
theorem writeWhoseDataDoesNotFitIsRefused : Obligations.WriteWhoseDataDoesNotFitIsRefused := by
  unfold Obligations.WriteWhoseDataDoesNotFitIsRefused
  intro s rest addr data
  refine ⟨fun hwide => ⟨refuseWide_of_wide _ hwide, fun hpending => ?_⟩,
    fun hwide => ⟨refuseWide_of_wide _ hwide, fun hpending => ?_⟩⟩
  · rw [step_of_request hpending]
    refine runRequest_of_dataTooWide ?_ _
    exact withData_of_wide (.wr8 addr data) hwide
  · rw [step_of_request hpending]
    refine runRequest_of_dataTooWide ?_ _
    exact withData_of_wide (.wr16 addr data) hwide

/-- R9, R215: with no event to take, a step keeps all state. -/
theorem step_of_no_event {s : State} (h : s.pending = []) : step s = .next s := by
  rw [step, runNext, h]

/-- R230: a step that takes a reset. -/
theorem step_of_reset {s : State} {rest : List HostEvent} (h : s.pending = .reset :: rest) :
    step s = .next (s.takeEvent rest).applyReset := by
  rw [step, runNext, h]
  rfl

/-- Settles O12: there is no event to take. -/
theorem idleStepKeepsAllState : Obligations.IdleStepKeepsAllState := by
  unfold Obligations.IdleStepKeepsAllState
  exact fun s => step_of_no_event

/-- R40: after reset every byte of `TX` reads 0. -/
theorem Memory.read_nil_tx {i : Nat} (h : i < 64) : Memory.read [] (0x1000 + i) = some 0 := by
  have hwindow : Config.txBase ≤ 0x1000 + i ∧ 0x1000 + i < Config.txBase + Config.txLen := by
    simp only [Config.txBase, Config.txLen]
    omega
  rw [Memory.read, Memory.lookup, Memory.unlisted, if_pos hwindow, Option.none_or]

/-- R41: after reset no byte of `RX` has a value. -/
theorem Memory.read_nil_rx (i : Nat) : Memory.read [] (0x10000 + i) = none := by
  rw [Memory.read, Memory.lookup, Option.none_or, Memory.unlisted_rx]

/-- Settles O13: a reset sets every field, whatever the state before. -/
theorem resetStepSetsEverythingWhateverTheStateBefore : Obligations.ResetStepSetsEverythingWhateverTheStateBefore := by
  unfold Obligations.ResetStepSetsEverythingWhateverTheStateBefore
  refine ⟨fun s rest hpending => ?_, fun i hi => Memory.read_nil_tx hi, Memory.read_nil_rx⟩
  rw [step_of_reset hpending]
  rfl

/-- Settles O14, register by register. -/
theorem resetStateReadsAsTheTableSays : Obligations.ResetStateReadsAsTheTableSays := by
  unfold Obligations.ResetStateReadsAsTheTableSays
  refine ⟨fun r => ?_, rfl, rfl, rfl, rfl, rfl, rfl, fun i hi => Memory.read_nil_tx hi, Memory.read_nil_rx⟩
  cases r <;> rfl

end Sys2Proof.Machine
end

section
/-! Every way a step can end (R9, R10), and what it does to the host's two lists and to `RXCAP`. -/

namespace Sys2Proof.Machine

/-- R180: the decoder refuses only a `WR8` or `WR16` whose data does not fit. -/
theorem decodeRequest_dataTooWide {r : BusRequest} (h : decodeRequest r = .error .dataTooWide) :
    (r.tc = 0b1000 ∧ 2 ^ 8 ≤ r.wdata.toNat) ∨ (r.tc = 0b1001 ∧ 2 ^ 16 ≤ r.wdata.toNat) := by
  have hwide : ∀ {n : Nat} {i : Instr}, withData n r.wdata i = .error .dataTooWide → 2 ^ (8 * n) ≤ r.wdata.toNat := by
    intro n i hdata
    by_contra hfits
    have hok : withData n r.wdata i = .ok i := if_pos (decide_eq_true (not_le.1 hfits))
    rw [hok] at hdata
    cases hdata
  unfold decodeRequest at h
  split at h
  case h_4 htc => exact .inl ⟨BitVec.eq_of_toNat_eq htc, hwide h⟩
  case h_5 htc => exact .inr ⟨BitVec.eq_of_toNat_eq htc, hwide h⟩
  all_goals cases h

/-- Settles O10, by what the next event is and, for a transaction, by what the decoder answers. -/
theorem stepAnswersNextStateOrUnwrittenFault : Obligations.StepAnswersNextStateOrUnwrittenFault := by
  unfold Obligations.StepAnswersNextStateOrUnwrittenFault
  intro s
  match hpending : s.pending with
  | [] => exact .inl ⟨_, step_of_no_event hpending⟩
  | .reset :: rest => exact .inl ⟨_, step_of_reset hpending⟩
  | .request r :: rest =>
    rw [step_of_request hpending]
    match hdec : decodeRequest r with
    | .error .badCode => exact .inl ⟨_, runRequest_of_badCode hdec _⟩
    | .error .dataTooWide =>
      exact .inr (.inr ⟨runRequest_of_dataTooWide hdec _, r, rest, rfl, decodeRequest_dataTooWide hdec⟩)
    | .ok i =>
      rw [runRequest_of_decodeRequest_ok hdec]
      cases hexec : exec i (s.takeEvent rest) with
      | next t => exact .inl ⟨t, rfl⟩
      | fault f =>
        obtain ⟨k, rfl, hk, hnone⟩ := exec_fault hexec
        exact .inr (.inl ⟨k, rfl, hk, hnone⟩)
      | refused q => exact absurd hexec (exec_not_refused (decodeRequest_ok hdec).1 _ q)

/-- R9: no instruction looks at the events to come. -/
theorem Effect.pending {i : Instr} {s t : State} (h : Effect i s t) : t.pending = s.pending := by
  induction h with
  | command _ _ _ _ _ _ _ _ ih => exact ih
  | _ => simp

/-- R38: no instruction changes `RXCAP`. -/
theorem Effect.rxcap {i : Instr} {s t : State} (h : Effect i s t) : t.rxcap = s.rxcap := by
  induction h with
  | command _ _ _ _ _ _ _ _ ih => exact ih
  | _ => simp

/-- R180: a transaction is answered once, the command it carries adding no answer of its own. -/
theorem Effect.answered_once {i : Instr} {s t : State} (hi : i.isCommand = false) (h : Effect i s t) :
    ∃ a, t.responses = s.responses ++ [a] := by
  cases h with
  | rd8 | rd8Error | rd16 | rd16Error | rd32 | rd32Error | wr8 | wr8Error | wr16 | wr16Error | wr32 | wr32Error
  | timeSec | timeUsec | illegal => exact ⟨_, rfl⟩
  | command _ _ _ _ t _ hdec heff =>
    obtain ⟨-, hresp⟩ := heff.command_leaves_bus (decodeCommand_isCommand hdec)
    exact ⟨.done, by simp [hresp]⟩
  | _ => cases hi

/-- Settles O11, by the three effects of an event. -/
theorem everyTransactionIsAnsweredOnce : Obligations.EveryTransactionIsAnsweredOnce := by
  unfold Obligations.EveryTransactionIsAnsweredOnce
  intro s t e rest hpending hstep
  rcases step_effect hstep with ⟨hnil, -⟩ | ⟨e', rest', hpending', heff⟩
  · rw [hnil] at hpending
    cases hpending
  · obtain ⟨rfl, rfl⟩ := List.cons.inj (hpending.symm.trans hpending')
    cases heff with
    | reset => exact ⟨rfl, rfl⟩
    | badCode => exact ⟨rfl, _, rfl⟩
    | run _ _ _ _ hdec heff =>
      have hanswer := heff.answered_once (decodeRequest_ok hdec).2.1
      exact ⟨heff.pending, hanswer⟩

/-- Settles O21: no instruction and no reset changes the capacity. -/
theorem rxcapIsConstant : Obligations.RxcapIsConstant := by
  unfold Obligations.RxcapIsConstant
  intro s t hstep
  rcases step_effect hstep with ⟨-, rfl⟩ | ⟨e, rest, -, heff⟩
  · rfl
  · cases heff with
    | reset => rfl
    | badCode => rfl
    | run _ _ _ _ _ heff => exact heff.rxcap

/-- Settles O31: each effect of a command is an error that records its code, or a completion. -/
theorem commandErrorsMakeNoOtherEffect : Obligations.CommandErrorsMakeNoOtherEffect := by
  unfold Obligations.CommandErrorsMakeNoOtherEffect
  intro c s t hc hexec
  cases exec_effect_command hc hexec with
  | nop | session | endSession | build | parseShort | parseOk | cksum | cktx =>
    exact ⟨fun hne => absurd (State.completeCmd_lastErr _) hne, fun _ => by simp⟩
  | buildState | buildTime | parseState | parseLen | parseTime | cksumLen => exact ⟨fun _ => rfl, nofun⟩
  | _ => cases hc

end Sys2Proof.Machine
end

section
/-! The registers as the host reads them (R23 to R38): the bits of `STATUS` and `RES_FLAGS`, the bits above the used
ones, and the registers that each update of the state leaves as they were. -/

namespace Sys2Proof.Machine

/-! ## Bits -/

/-- R26: `STATUS[3:0]`, the last operand of the concatenation. -/
theorem statusWord_lastErr (s : State) : s.statusWord.extractLsb' 0 4 = s.lastErr.code :=
  BitVec.extractLsb'_append_eq_right

/-- R26: `STATUS[7:6]` lies above `LASTERR` and the two sticky bits. -/
theorem statusWord_gap (s : State) : s.statusWord.extractLsb' 6 2 = 0 := by
  rw [State.statusWord, BitVec.extractLsb'_append_eq_of_le (by decide),
    BitVec.extractLsb'_append_eq_of_le (by decide), BitVec.extractLsb'_append_eq_of_le (by decide)]
  exact BitVec.extractLsb'_append_eq_right

/-- R26: `STATUS[31:10]` is the first operand of the concatenation. -/
theorem statusWord_reserved (s : State) : s.statusWord.extractLsb' 10 22 = 0 := by
  rw [State.statusWord]
  iterate 6 rw [BitVec.extractLsb'_append_eq_of_le (by decide)]
  simp

/-- R23: a register of `n` used bits reads below `2 ^ n`. -/
theorem toNat_setWidth_32_lt {n : Nat} (v : BitVec n) (h : n ≤ 32) : (v.setWidth 32).toNat < 2 ^ n := by
  rw [BitVec.toNat_setWidth_of_le h]
  exact v.isLt

/-- A word whose bits from `n` up are 0 is below `2 ^ n`. -/
theorem toNat_lt_of_upper_zero {w : Word} {n : Nat} (h : w.extractLsb' n (32 - n) = 0) (hn : n ≤ 32) : w.toNat < 2 ^ n := by
  have hshift : w.toNat / 2 ^ n < 2 ^ (32 - n) :=
    Nat.div_lt_of_lt_mul (by rw [← Nat.pow_add, Nat.add_sub_cancel' hn]; exact w.isLt)
  have hzero := congrArg BitVec.toNat h
  rw [BitVec.extractLsb'_toNat, Nat.shiftRight_eq_div_pow, Nat.mod_eq_of_lt hshift] at hzero
  exact (Nat.div_eq_zero_iff_lt (Nat.two_pow_pos n)).1 hzero

/-- R37: `RES_FLAGS[31:6]`. -/
theorem extractLsb'_setWidth_upper {n : Nat} (v : BitVec n) : (v.setWidth 32).extractLsb' n (32 - n) = 0 := by
  apply BitVec.eq_of_getLsbD_eq
  intro i _
  rw [BitVec.getLsbD_extractLsb', BitVec.getLsbD_setWidth, BitVec.getLsbD_of_ge v (n + i) (Nat.le_add_right n i)]
  simp

/-- Settles O17: each field is one operand of a concatenation. -/
theorem statusAndFlagBitsReadAtTheirPlaces : Obligations.StatusAndFlagBitsReadAtTheirPlaces := by
  unfold Obligations.StatusAndFlagBitsReadAtTheirPlaces
  intro s
  simp only [State.readReg]
  refine ⟨?lastErr, ?errSeen, ?busErrSeen, statusWord_gap s, ?sact, ?txValid, statusWord_reserved s,
    ?seqMismatch, ?idMismatch, ?ckBad, ?ihlNot5, ?rttNeg, ?typeNotReply, extractLsb'_setWidth_upper s.res.flags.code⟩
  case lastErr =>
    rw [statusWord_lastErr]
    cases s.lastErr <;> rfl
  all_goals
    simp only [State.statusWord, ResFlags.code, BitVec.getLsbD_append, BitVec.getLsbD_setWidth]
    simp [bit]

/-- Settles O18: a register is held at its used width, and `STATUS` has no bit above its tenth. -/
theorem bitsAboveTheUsedOnesReadZero : Obligations.BitsAboveTheUsedOnesReadZero := by
  unfold Obligations.BitsAboveTheUsedOnesReadZero
  intro s r
  cases r with
  | cmd | timeSec | timeUsec | tsSecLast | tsUsecLast | resRttLo | resRttHi => exact BitVec.isLt _
  | status => exact toNat_lt_of_upper_zero (statusWord_reserved s) (by decide)
  | _ => exact toNat_setWidth_32_lt _ (by decide)

/-! ## Who writes a register -/

section Unchanged

variable {s : State} {r : Reg}

/-- R24: an answer to the host changes no register. -/
theorem readReg_respond (a : Response) : (s.respond a).readReg r = s.readReg r := by
  cases r <;> rfl

/-- R41: a write to `RX` changes no register. -/
theorem readReg_memWrite (a : Nat) (bs : List Byte) : (s.memWrite a bs).readReg r = s.readReg r := by
  cases r <;> rfl

/-- R204: a bus error changes `STATUS` alone. -/
theorem readReg_raiseBusError (c : BusCause) (hr : r ≠ .status) : (s.raiseBusError c).readReg r = s.readReg r := by
  cases r with
  | status => contradiction
  | _ => rfl

/-- R201: a command error changes `STATUS` alone. -/
theorem readReg_raiseCmdError (e : ErrCode) (hr : r ≠ .status) : (s.raiseCmdError e).readReg r = s.readReg r := by
  cases r with
  | status => contradiction
  | _ => rfl

/-- R202: a completion changes `STATUS` alone. -/
theorem readReg_completeCmd (hr : r ≠ .status) : s.completeCmd.readReg r = s.readReg r := by
  cases r with
  | status => contradiction
  | _ => rfl

/-- R172: the end of a session changes `STATUS` alone. -/
theorem readReg_closeSession (hr : r ≠ .status) : s.closeSession.readReg r = s.readReg r := by
  cases r with
  | status => contradiction
  | _ => rfl

/-- R25: a stored command word changes `CMD` alone. -/
theorem readReg_storeCmd (w : Word) (hr : r ≠ .cmd) : (s.storeCmd w).readReg r = s.readReg r := by
  cases r with
  | cmd => contradiction
  | _ => rfl

/-- R27: a write to `TIME_SEC` changes it alone. -/
theorem readReg_setTimeSec (w : Word) (hr : r ≠ .timeSec) : (s.setTimeSec w).readReg r = s.readReg r := by
  cases r with
  | timeSec => contradiction
  | _ => rfl

/-- R27: a write to `TIME_USEC` changes it alone. -/
theorem readReg_setTimeUsec (w : Word) (hr : r ≠ .timeUsec) : (s.setTimeUsec w).readReg r = s.readReg r := by
  cases r with
  | timeUsec => contradiction
  | _ => rfl

/-- R171: the registers that a `SESSION` writes are those that list it. -/
theorem readReg_openSession {id : Half} (hr : ¬ mayWrite (.session id) r) :
    (s.openSession id).readReg r = s.readReg r := by
  cases r with
  | cmd | timeSec | timeUsec | ckSum | ckResult | rxcap => rfl
  | _ => simp [mayWrite, commandOf] at hr

/-- R122: the registers that a `BUILD` writes are those that list it. -/
theorem readReg_latchPacket {seq : Half} (hr : ¬ mayWrite (.build seq) r) :
    (s.latchPacket seq).readReg r = s.readReg r := by
  cases r with
  | status | seqLast | tsSecLast | tsUsecLast => simp [mayWrite, commandOf] at hr
  | _ => rfl

/-- R149: the registers that a `PARSE` writes are those that list it. -/
theorem readReg_setResult {len : Half} (res : ProbeResult) (hr : ¬ mayWrite (.parse len) r) :
    (s.setResult res).readReg r = s.readReg r := by
  cases r with
  | cmd | timeSec | timeUsec | ident | seqLast | tsSecLast | tsUsecLast | ckSum | ckResult | rxcap => rfl
  | _ => simp [mayWrite, commandOf] at hr

/-- R105, R106: the registers that a checksum command writes are those that list it. -/
theorem readReg_setChecksum {i : Instr} (bs : List Byte) (hi : runsChecksum i) (hr : ¬ mayWrite i r) :
    (s.setChecksum bs).readReg r = s.readReg r := by
  cases r with
  | ckSum | ckResult => exact absurd hi hr
  | status => exact absurd trivial hr
  | _ => rfl

end Unchanged

/-- A command is what it executes. -/
theorem commandOf_of_isCommand {c : Instr} (h : c.isCommand = true) : commandOf c = some c := by
  cases c with
  | nop | session | build | parse | cksum | cktx | endSession => rfl
  | rd8 | rd16 | rd32 | wr8 | wr16 | wr32 => cases h

/-- R70: a `WR32` to `CMD` executes what the command it carries does. -/
theorem commandOf_carried {w : Word} {c : Instr} (h : decodeCommand w = .ok c) : commandOf (.wr32 0 w) = commandOf c := by
  rw [commandOf_of_isCommand (decodeCommand_isCommand h), commandOf, if_pos rfl, h]
  rfl

/-- R24: the `WR32` that carries a command is listed wherever the command is. -/
theorem mayWrite_of_carried {w : Word} {c : Instr} {r : Reg} (h : decodeCommand w = .ok c) (hr : mayWrite c r) :
    mayWrite (.wr32 0 w) r := by
  have hcmd := decodeCommand_isCommand h
  cases r with
  | cmd | timeSec | timeUsec =>
    obtain ⟨data, rfl⟩ := hr
    cases hcmd
  | status => trivial
  | rxcap => exact hr
  | _ => simpa only [mayWrite, runsSession, runsBuild, runsParse, runsChecksum, commandOf_carried h] using hr

/-- R24: an effect leaves a register that does not list its instruction. -/
theorem Effect.readReg_of_not_mayWrite {i : Instr} {s t : State} {r : Reg} (h : Effect i s t) (hr : ¬ mayWrite i r) :
    t.readReg r = s.readReg r := by
  have hstatus : r ≠ .status := fun heq => hr (heq ▸ trivial)
  induction h with
  | nop => exact readReg_completeCmd hstatus
  | session => rw [readReg_completeCmd hstatus, readReg_openSession hr]
  | endSession => rw [readReg_completeCmd hstatus, readReg_closeSession hstatus]
  | build => rw [readReg_completeCmd hstatus, readReg_latchPacket hr]
  | parseShort | parseOk => rw [readReg_completeCmd hstatus, readReg_setResult _ hr]
  | cksum => rw [readReg_completeCmd hstatus, readReg_setChecksum _ (.inl ⟨_, rfl⟩) hr]
  | cktx => rw [readReg_completeCmd hstatus, readReg_setChecksum _ (.inr rfl) hr]
  | buildState | buildTime | parseState | parseLen | parseTime | cksumLen => exact readReg_raiseCmdError _ hstatus
  | rd8 | rd16 | rd32 => exact readReg_respond _
  | rd8Error | rd16Error | rd32Error | wr8Error | wr16Error | wr32Error => exact readReg_raiseBusError _ hstatus
  | wr8 | wr16 | wr32 => rw [readReg_respond, readReg_memWrite]
  | timeSec addr data _ ha =>
    obtain rfl : addr = 0x08 := BitVec.eq_of_toNat_eq ha
    have hreg : r ≠ .timeSec := by
      rintro rfl
      exact hr ⟨data, rfl⟩
    rw [readReg_respond, readReg_setTimeSec _ hreg]
  | timeUsec addr data _ ha =>
    obtain rfl : addr = 0x0C := BitVec.eq_of_toNat_eq ha
    have hreg : r ≠ .timeUsec := by
      rintro rfl
      exact hr ⟨data, rfl⟩
    rw [readReg_respond, readReg_setTimeUsec _ hreg]
  | illegal addr data _ ha =>
    obtain rfl : addr = 0 := BitVec.eq_of_toNat_eq ha
    have hreg : r ≠ .cmd := by
      rintro rfl
      exact hr ⟨data, rfl⟩
    rw [readReg_respond, readReg_raiseCmdError _ hstatus, readReg_storeCmd _ hreg]
  | command addr data _ c _ ha hdec _ ih =>
    obtain rfl : addr = 0 := BitVec.eq_of_toNat_eq ha
    have hreg : r ≠ .cmd := by
      rintro rfl
      exact hr ⟨data, rfl⟩
    rw [readReg_respond, ih fun hc => hr (mayWrite_of_carried hdec hc), readReg_storeCmd _ hreg]

/-- Settles O19, by the effects. -/
theorem onlyTheListedOperationsChangeARegister : Obligations.OnlyTheListedOperationsChangeARegister := by
  unfold Obligations.OnlyTheListedOperationsChangeARegister
  intro i s t r hexec hne
  by_contra hr
  exact hne ((exec_effect hexec).readReg_of_not_mayWrite hr)

end Sys2Proof.Machine
end

section
/-! The word writes to `RX` (R57, R63, R186), and the bytes of memory that an instruction can change (R28, R40, R41). -/

namespace Sys2Proof.Machine

/-! ## A word written to `RX` -/

/-- R186: a word write at the offset of a register. -/
theorem busWrite_of_offset {addr : Word} {r : Reg} {s : State} {bs : List Byte} {onReg : Reg → Outcome}
    (h : addr.toNat = r.offset) : busWrite 4 addr s bs onReg = onReg r := by
  rw [busWrite, busAccess, decodeAddr_of_offset h]

/-- Settles O28: the bus write of four bytes, which the two time registers store. -/
theorem writeWordStoresARegisterOrFourBytesBigEndian : Obligations.WriteWordStoresARegisterOrFourBytesBigEndian := by
  unfold Obligations.WriteWordStoresARegisterOrFourBytesBigEndian
  intro s addr data
  rw [exec, execWr32]
  exact ⟨fun c hacc => busWrite_of_accessError (.inr (.inr rfl)) hacc,
    fun hacc hro => busWrite_of_readOnlyAt (.inr (.inr rfl)) hacc hro fun _ => rfl,
    fun hoff => busWrite_of_offset (r := .timeSec) hoff,
    fun hoff => busWrite_of_offset (r := .timeUsec) hoff,
    fun hacc hrx => busWrite_stores (.inr (.inr rfl)) hacc hrx⟩

/-- R53, R54: an aligned access that lies in the receive window has no bus error. -/
theorem accessError_of_rx_range {n a : Nat} {cap : Half} (halign : a % n = 0) (hlo : 0x10000 ≤ a)
    (hhi : a + n ≤ 0x10000 + cap.toNat) : accessError n a cap = none := by
  have hreg : ¬ inRegWindow a := by omega
  have hmapped : ∀ k < n, byteMapped cap (a + k) := fun k hk => .inr (.inr (by omega))
  rw [accessError, if_neg (not_not.2 halign), if_neg (fun hsize => hreg hsize.2), if_pos hmapped]

/-- R54, R58: a word access to `RX` without a bus error is aligned and lies in the receive window. -/
theorem rx_range_of_accessError {addr : Word} {cap : Half} (hacc : accessError 4 addr.toNat cap = none)
    (hrx : inRxWindow cap addr.toNat) : addr.toNat % 4 = 0 ∧ addr.toNat + 4 ≤ 0x10000 + cap.toNat := by
  rcases (decodeAddr_spec (.inr (.inr rfl)) addr cap).2 hacc with ⟨r, -, -, hoff⟩ | ⟨-, -, hhi⟩ | ⟨hdec, -, hhi⟩
  · have := r.offset_le
    omega
  · omega
  · exact ⟨(decodeAddr_ok (by decide) hdec).1, hhi⟩

/-- A part of what memory holds is held at its place. -/
theorem holdsAt_drop_take {m : Memory} {a : Nat} {bs : List Byte} (h : holdsAt m a bs) (k n : Nat) :
    holdsAt m (a + k) ((bs.drop k).take n) := by
  intro j hj
  simp only [List.length_take, List.length_drop] at hj
  rw [Nat.add_assoc, h (k + j) (by omega), List.getElem?_take_of_lt (by omega), List.getElem?_drop]

/-- R57: an aligned read within four bytes that an aligned word of `RX` holds. -/
theorem busRead_within_rx_word {s : State} {addr : Word} {bs : List Byte} (hlen : bs.length = 4)
    (halign : addr.toNat % 4 = 0) (hlo : 0x10000 ≤ addr.toNat) (hhi : addr.toNat + 4 ≤ 0x10000 + s.rxcap.toNat)
    (hbs : holdsAt s.mem addr.toNat bs) (n k : Nat) (addr' : Word) (hn : n = 1 ∨ n = 2 ∨ n = 4) (hk : k % n = 0)
    (hkn : k + n ≤ 4) (haddr : addr'.toNat = addr.toNat + k) (pack : List Byte → Response) (onReg : Reg → Outcome) :
    busRead n addr' s pack onReg = .next (s.respond (pack ((bs.drop k).take n))) := by
  have halign' : addr'.toNat % n = 0 := by
    rcases hn with rfl | rfl | rfl <;> omega
  refine busRead_of_holdsAt hn (accessError_of_rx_range halign' (by omega) (by omega)) (by omega) ?_ ?_
  · rw [List.length_take, List.length_drop]
    omega
  · rw [haddr]
    exact holdsAt_drop_take hbs k n

/-- R12: the upper two of the four bytes of a word. -/
theorem be16At_upper (v : Word) : be16At (((bytesBe32 v).drop 0).take 2) 0 = v.extractLsb' 16 16 :=
  BitVec.extractLsb'_append_extractLsb'_eq_extractLsb' rfl

/-- R12: the lower two of the four bytes of a word. -/
theorem be16At_lower (v : Word) : be16At (((bytesBe32 v).drop 2).take 2) 0 = v.extractLsb' 0 16 :=
  BitVec.extractLsb'_append_extractLsb'_eq_extractLsb' rfl

/-- R12: the four bytes of a word. -/
theorem be32At_word (v : Word) : be32At (((bytesBe32 v).drop 0).take 4) 0 = v := by
  change v.extractLsb' 24 8 ++ v.extractLsb' 16 8 ++ v.extractLsb' 8 8 ++ v.extractLsb' 0 8 = v
  rw [BitVec.extractLsb'_append_extractLsb'_eq_extractLsb' (show 24 = 16 + 8 from rfl),
    BitVec.extractLsb'_append_extractLsb'_eq_extractLsb' (show 16 = 8 + 8 from rfl),
    BitVec.extractLsb'_append_extractLsb'_eq_extractLsb' (show 8 = 0 + 8 from rfl)]
  exact BitVec.extractLsb'_eq_self

/-- R12: each of the four bytes of a word. -/
theorem byteAt_word (v : Word) {k : Nat} (hk : k < 4) :
    byteAt (((bytesBe32 v).drop k).take 1) 0 = v.extractLsb' (24 - 8 * k) 8 := by
  interval_cases k <;> rfl

/-- Settles O29: after the write, memory holds the four bytes, and each read is within them. -/
theorem mixedWidthReadsSeeTheWordBigEndian : Obligations.MixedWidthReadsSeeTheWordBigEndian := by
  unfold Obligations.MixedWidthReadsSeeTheWordBigEndian
  intro s addr data hacc hrx
  obtain ⟨halign, hhi⟩ := rx_range_of_accessError hacc hrx
  have hoff : ∀ k < 4, (addr + BitVec.ofNat 32 k).toNat = addr.toNat + k := by
    intro k hk
    have hcap := s.rxcap.isLt
    rw [BitVec.toNat_add, BitVec.toNat_ofNat]
    omega
  have hread := busRead_within_rx_word (s := (s.memWrite addr.toNat (bytesBe32 data)).respond .done)
    (bs := bytesBe32 data) rfl halign hrx.1 hhi (holdsAt_writeBytes _ _ _)
  refine ⟨_, busWrite_of_inRxWindow (.inr (.inr rfl)) hacc hrx, ?word, ?upper, ?lower, ?bytes⟩
  case word =>
    rw [exec, execRd32, hread 4 0 addr (.inr (.inr rfl)) rfl le_rfl rfl, be32At_word, State.respond]
  case upper =>
    rw [exec, execRd16, hread 2 0 addr (.inr (.inl rfl)) rfl (by decide) rfl, be16At_upper, State.respond]
  case lower =>
    rw [exec, execRd16, hread 2 2 (addr + 2) (.inr (.inl rfl)) rfl le_rfl (hoff 2 (by decide)), be16At_lower,
      State.respond]
  case bytes =>
    intro k hk
    rw [exec, execRd8, hread 1 k _ (.inl rfl) (Nat.mod_one k) hk (hoff k hk), byteAt_word data hk, State.respond]

/-! ## The bytes an instruction can change -/

/-- R184 to R186: the instruction is a host write of `n` bytes from address `a` on. -/
def hostWrites (i : Instr) (a n : Nat) : Prop :=
  ∃ addr data, a = addr.toNat ∧
    ((i = .wr8 addr data ∧ n = 1) ∨ (i = .wr16 addr data ∧ n = 2) ∨ (i = .wr32 addr data ∧ n = 4))

/-- R28, R40, R41: all that an instruction can do to memory, for a block of capacity `cap`. -/
inductive MemEffect (cap : Half) (m : Memory) (i : Instr) : Memory → Prop
  | kept : MemEffect cap m i m
  | built (bs) : runsBuild i → bs.length = 64 → MemEffect cap m i (Memory.writeBytes m Config.txBase bs)
  | stored (a bs) : hostWrites i a bs.length → 0x10000 ≤ a → a + bs.length ≤ 0x10000 + cap.toNat →
      MemEffect cap m i (Memory.writeBytes m a bs)

theorem MemEffect.of_eq {cap : Half} {m m' : Memory} {i : Instr} (h : m' = m) : MemEffect cap m i m' :=
  h ▸ .kept

/-- R70: what the `WR32` that carries a command does to memory is what the command does. -/
theorem MemEffect.carried {cap : Half} {m m' : Memory} {w : Word} {c : Instr} (hdec : decodeCommand w = .ok c)
    (h : MemEffect cap m c m') : MemEffect cap m (.wr32 0 w) m' := by
  cases h with
  | kept => exact .kept
  | built bs hbuild hlen => exact .built bs (by simpa only [runsBuild, commandOf_carried hdec] using hbuild) hlen
  | stored a bs hwrite =>
    have hcmd := decodeCommand_isCommand hdec
    obtain ⟨addr, data, -, ⟨rfl, -⟩ | ⟨rfl, -⟩ | ⟨rfl, -⟩⟩ := hwrite <;> cases hcmd

/-- R53: an access that decodes to `RX` lies in the receive window. -/
theorem rx_range_of_decodeAddr {n i : Nat} {addr : Word} {cap : Half} (hn : 0 < n)
    (h : decodeAddr n addr cap = .ok (.rx i)) : 0x10000 ≤ addr.toNat ∧ addr.toNat + n ≤ 0x10000 + cap.toNat := by
  obtain ⟨-, haddr, hhi⟩ := decodeAddr_ok hn h
  simp only [Config.rxBase] at haddr
  omega

/-- R28, R40, R41: `BUILD` writes `TX`, a host write writes `RX`, and no other effect writes memory. -/
theorem Effect.memEffect {i : Instr} {s t : State} (h : Effect i s t) : MemEffect s.rxcap s.mem i t.mem := by
  induction h with
  | build seq s =>
    rw [State.completeCmd_mem, State.latchPacket_mem]
    exact .built _ ⟨seq, rfl⟩ (echoRequest_length ..)
  | wr8 addr data s k hdec =>
    obtain ⟨hlo, hhi⟩ := rx_range_of_decodeAddr (by decide) hdec
    exact .stored _ _ ⟨addr, data, rfl, .inl ⟨rfl, rfl⟩⟩ hlo hhi
  | wr16 addr data s k hdec =>
    obtain ⟨hlo, hhi⟩ := rx_range_of_decodeAddr (by decide) hdec
    exact .stored _ _ ⟨addr, data, rfl, .inr (.inl ⟨rfl, rfl⟩)⟩ hlo hhi
  | wr32 addr data s k hdec =>
    obtain ⟨hlo, hhi⟩ := rx_range_of_decodeAddr (by decide) hdec
    exact .stored _ _ ⟨addr, data, rfl, .inr (.inr ⟨rfl, rfl⟩)⟩ hlo hhi
  | command addr data s c t ha hdec _ ih =>
    obtain rfl : addr = 0 := BitVec.eq_of_toNat_eq ha
    exact ih.carried hdec
  | _ => exact .of_eq (by simp)

/-- A written sequence changes bytes in it only, and takes no value away. -/
theorem Memory.read_writeBytes_cases (bs : List Byte) (m : Memory) (a x : Nat) :
    Memory.read (Memory.writeBytes m a bs) x = Memory.read m x ∨
      (a ≤ x ∧ x < a + bs.length ∧ Memory.read (Memory.writeBytes m a bs) x ≠ none) := by
  by_cases hin : a ≤ x ∧ x < a + bs.length
  · obtain ⟨k, rfl⟩ := Nat.exists_eq_add_of_le hin.1
    have hk : k < bs.length := Nat.lt_of_add_lt_add_left hin.2
    refine .inr ⟨hin.1, hin.2, ?_⟩
    rw [Memory.read_writeBytes_inside bs m a k hk, List.getElem?_eq_getElem hk]
    exact Option.some_ne_none _
  · exact .inl (Memory.read_writeBytes_outside bs m a x (by omega))

/-- Settles O22, by what an instruction can do to memory. -/
theorem buffersChangeOnlyByHostWritesAndBuild : Obligations.BuffersChangeOnlyByHostWritesAndBuild := by
  unfold Obligations.BuffersChangeOnlyByHostWritesAndBuild
  intro i s t x hexec
  have heff := (exec_effect hexec).memEffect
  generalize t.mem = m' at heff
  cases heff with
  | kept => exact ⟨fun hne => absurd rfl hne, id⟩
  | built bs hbuild hlen =>
    rcases Memory.read_writeBytes_cases bs s.mem Config.txBase x with hsame | ⟨hlo, hhi, hsome⟩
    · exact ⟨fun hne => absurd hsame hne, fun hne => hsame ▸ hne⟩
    · rw [hlen] at hhi
      exact ⟨fun _ => .inl ⟨⟨hlo, Nat.le_of_lt_succ hhi⟩, hbuild⟩, fun _ => hsome⟩
  | stored a bs hwrite hrx hcap =>
    rcases Memory.read_writeBytes_cases bs s.mem a x with hsame | ⟨hlo, hhi, hsome⟩
    · exact ⟨fun hne => absurd hsame hne, fun hne => hsame ▸ hne⟩
    · refine ⟨fun _ => .inr ⟨by omega, ?_⟩, fun _ => hsome⟩
      obtain ⟨addr, data, rfl, ⟨hi, hn⟩ | ⟨hi, hn⟩ | ⟨hi, hn⟩⟩ := hwrite
      · exact .inl ⟨addr, data, hi, by omega⟩
      · exact .inr (.inl ⟨addr, data, hi, by omega⟩)
      · exact .inr (.inr ⟨addr, data, hi, by omega⟩)

end Sys2Proof.Machine
end

section
/-! The parser (R140 to R151, R203, R207): its checks, the byte at which it faults, the bytes it does not read, the
round-trip time, and a `PARSE` after a `PARSE` or a `BUILD`. -/

namespace Sys2Proof.Machine

/-! ## The checks -/

theorem execParse_of_long {s : State} {len : Half} (hvalid : s.txValid = true) (h : s.rxcap.toNat < len.toNat) :
    execParse len s = .next (s.raiseCmdError .ebadlen) := by
  rw [execParse, if_neg (by simp [hvalid]), if_pos h]

theorem execParse_of_bad_time {s : State} {len : Half} (hvalid : s.txValid = true) (hcap : len.toNat ≤ s.rxcap.toNat)
    (h : 1000000 ≤ s.timeUsec.toNat) : execParse len s = .next (s.raiseCmdError .ebadtime) := by
  rw [execParse, if_neg (by simp [hvalid]), if_neg (not_lt.2 hcap), if_pos h]

/-- Settles O47, by the three checks in their order. -/
theorem parseErrorsComeInPriorityOrder : Obligations.ParseErrorsComeInPriorityOrder := by
  unfold Obligations.ParseErrorsComeInPriorityOrder
  intro s len
  exact ⟨execParse_of_no_packet, execParse_of_long, execParse_of_bad_time⟩

/-- R149, R207: past its checks, a `PARSE` of a reply with a byte not written. -/
theorem execParse_of_readReply_error {s : State} {len : Half} {f : Fault} (hvalid : s.txValid = true)
    (hcap : len.toNat ≤ s.rxcap.toNat) (htime : s.timeUsec.toNat < 1000000) (hlen : 28 ≤ len.toNat)
    (hf : readReply s.mem len.toNat = .error f) : execParse len s = .fault f := by
  rw [execParse, if_neg (by simp [hvalid]), if_neg (not_lt.2 hcap), if_neg (not_le.2 htime), if_neg (not_lt.2 hlen), hf]

/-! ## The bytes it reads -/

theorem exists_rxByte_ok {m : Memory} {i : Nat} (h : Memory.read m (Config.rxBase + i) ≠ none) :
    ∃ b, rxByte m i = .ok b := by
  obtain ⟨b, hb⟩ := Option.ne_none_iff_exists'.1 h
  exact ⟨b, rxByte_ok.2 hb⟩

/-- Settles O50: the reads of a reply in their order, up to the first that fails. -/
theorem parseFaultsAtTheFirstUnwrittenByteItReads : Obligations.ParseFaultsAtTheFirstUnwrittenByteItReads := by
  unfold Obligations.ParseFaultsAtTheFirstUnwrittenByteItReads
  intro s len hvalid hlen hcap htime
  refine ⟨fun h0 => ?_, fun h0 h8 => ?_, fun i hlo hi h0 h8 hnone hbefore => ?_⟩ <;>
    refine execParse_of_readReply_error hvalid hcap htime hlen ?_
  · rw [readReply, rxByte_error.2 ⟨rfl, h0⟩]
  · obtain ⟨first, hfirst⟩ := exists_rxByte_ok (i := 0) h0
    rw [readReply, hfirst, rxByte_error.2 ⟨rfl, h8⟩]
  · obtain ⟨first, hfirst⟩ := exists_rxByte_ok (i := 0) h0
    obtain ⟨ttl, httl⟩ := exists_rxByte_ok (i := 8) h8
    obtain ⟨k, rfl⟩ := Nat.exists_eq_add_of_le hlo
    have hicmp : rxRange s.mem Config.ipHdrLen (len.toNat - Config.ipHdrLen) = .error (.unwritten (20 + k)) :=
      rxRange_error.2 ⟨k, Nat.lt_sub_iff_add_lt'.2 hi, rfl, hnone, fun j hj => hbefore (20 + j) (by omega) (by omega)⟩
    rw [readReply, hfirst, httl, hicmp]

theorem rxByte_congr {m m' : Memory} {i : Nat}
    (h : Memory.read m (Config.rxBase + i) = Memory.read m' (Config.rxBase + i)) : rxByte m i = rxByte m' i := by
  rw [rxByte, rxByte, h]

theorem rxRange_congr {m m' : Memory} {i n : Nat}
    (h : ∀ k, i ≤ k → k < i + n → Memory.read m (Config.rxBase + k) = Memory.read m' (Config.rxBase + k)) :
    rxRange m i n = rxRange m' i n := by
  induction n generalizing i with
  | zero => rfl
  | succ n ih =>
    rw [rxRange, rxRange, rxByte_congr (h i le_rfl (by omega)), ih fun k hlo hhi => h k (by omega) (by omega)]

/-- R140: the bytes a reply is read from. -/
theorem readReply_congr {m m' : Memory} {len : Nat} (h0 : Memory.read m 0x10000 = Memory.read m' 0x10000)
    (h8 : Memory.read m 0x10008 = Memory.read m' 0x10008)
    (hicmp : ∀ i, 20 ≤ i → i < len → Memory.read m (0x10000 + i) = Memory.read m' (0x10000 + i)) :
    readReply m len = readReply m' len := by
  rw [readReply, readReply, rxByte_congr (i := 0) h0, rxByte_congr (i := 8) h8,
    rxRange_congr (m' := m') fun k hlo hhi => hicmp k hlo (by simp only [Config.ipHdrLen] at hlo hhi; omega)]

/-- The outcome with another memory in its next state. -/
def withMem (m : Memory) : Outcome → Outcome
  | .next t => .next { t with mem := m }
  | .fault f => .fault f
  | .refused r => .refused r

/-- R140: `PARSE` sees memory only through the bytes of the reply, and writes none of it. -/
theorem execParse_withMem {s : State} {m : Memory} {len : Half}
    (h : readReply m len.toNat = readReply s.mem len.toNat) :
    execParse len { s with mem := m } = withMem m (execParse len s) := by
  rw [execParse, execParse, h]
  split_ifs
  · rfl
  · rfl
  · rfl
  · rfl
  · cases readReply s.mem len.toNat <;> rfl

/-- Settles O51: the two replies read alike. -/
theorem parseReadsNoOtherByte : Obligations.ParseReadsNoOtherByte := by
  unfold Obligations.ParseReadsNoOtherByte
  intro s m len h0 h8 hicmp
  rw [exec, exec, execParse_withMem (readReply_congr h0 h8 hicmp)]
  exact ⟨fun t ht => by rw [ht, withMem], fun f hf => by rw [hf, withMem]⟩

/-! ## The round-trip time -/

/-- R147: the difference of legal times fits 52 bits. -/
theorem microsBetween_lt {ss su rs ru : Word} (hru : ru.toNat < 1000000) : microsBetween ss su rs ru < 2 ^ 52 := by
  have hrs := rs.isLt
  rw [microsBetween]
  omega

/-- R147: between legal times, negative is earlier. -/
theorem microsBetween_neg_iff {ss su rs ru : Word} (hsu : su.toNat < 1000000) (hru : ru.toNat < 1000000) :
    microsBetween ss su rs ru < 0 ↔ rs.toNat < ss.toNat ∨ (rs.toNat = ss.toNat ∧ ru.toNat < su.toNat) := by
  rw [microsBetween]
  omega

theorem microsBetween_mono {ss su rs ru rs' ru' : Word} (hru : ru.toNat < 1000000)
    (h : rs.toNat < rs'.toNat ∨ (rs.toNat = rs'.toNat ∧ ru.toNat ≤ ru'.toNat)) :
    microsBetween ss su rs ru ≤ microsBetween ss su rs' ru' := by
  rw [microsBetween, microsBetween]
  omega

/-- R241: no time passes between equal times. -/
theorem microsBetween_self (sec usec : Word) : microsBetween sec usec sec usec = 0 := by
  rw [microsBetween]
  omega

/-- Settles O52: the time is the difference, or 0 where that is negative. -/
theorem roundTripTimeIsBoundedSignedAndMonotone : Obligations.RoundTripTimeIsBoundedSignedAndMonotone := by
  unfold Obligations.RoundTripTimeIsBoundedSignedAndMonotone
  intro ss su rs ru hsu hru
  have hlt := microsBetween_lt (ss := ss) (su := su) (rs := rs) hru
  rw [rttMicros_eq, decide_eq_true_iff]
  refine ⟨by dsimp only; omega, microsBetween_neg_iff hsu hru, fun hneg => ?_, fun rs' ru' _ hle => ?_⟩
  · exact Int.toNat_of_nonpos (le_of_lt hneg)
  · rw [rttMicros_eq]
    exact Int.toNat_le_toNat (microsBetween_mono hru hle)

/-! ## A `PARSE` after another command -/

/-- Settles O53: a `PARSE` keeps all that it reads, and a second one writes the same again. -/
theorem parsingTheSameReplyAgainGivesTheSameState : Obligations.ParsingTheSameReplyAgainGivesTheSameState := by
  unfold Obligations.ParsingTheSameReplyAgainGivesTheSameState
  intro s t len hexec
  cases exec_effect_command rfl hexec with
  | parseState _ _ hvalid => exact execParse_of_no_packet (s := s.raiseCmdError .estate) hvalid
  | parseLen _ _ hvalid hlong => exact execParse_of_long (s := s.raiseCmdError .ebadlen) hvalid hlong
  | parseTime _ _ hvalid hcap htime => exact execParse_of_bad_time (s := s.raiseCmdError .ebadtime) hvalid hcap htime
  | parseShort _ _ hvalid hcap htime hlen =>
    exact execParse_of_short (s := (s.setResult (shortResult s.seqLast)).completeCmd) hvalid hcap htime hlen
  | parseOk _ _ r hvalid hcap htime hlen hr =>
    exact execParse_of_readReply_ok (s := (s.setResult (replyResult s len r)).completeCmd) hvalid hcap htime hlen hr

/-- R147, R241: the round-trip time of a reply received at the time its request was sent. -/
theorem replyResult_rtt_of_same_time {s : State} (hsec : s.timeSec = s.tsSecLast) (husec : s.timeUsec = s.tsUsecLast)
    (len : Half) (r : ReplyBytes) :
    (replyResult s len r).rttLo = 0 ∧ (replyResult s len r).rttHi = 0 ∧ (replyResult s len r).flags.rttNeg = false := by
  simp only [replyResult, replyFlags, rttMicros_eq, hsec, husec, microsBetween_self]
  decide

/-- Settles O54: the packet that `PARSE` answers for is the one `BUILD` latched, at the time it latched. -/
theorem parseReportsTheLastPacketBuilt : Obligations.ParseReportsTheLastPacketBuilt := by
  unfold Obligations.ParseReportsTheLastPacketBuilt
  intro s t u seq len hact htime hbuild hcap hparse
  obtain rfl := eq_latchPacket_of_build hact htime hbuild
  cases exec_effect_command rfl hparse with
  | parseState _ _ hvalid => simp at hvalid
  | parseLen _ _ _ hlong => exact absurd hcap (not_le.2 hlong)
  | parseTime _ _ _ _ hbad => exact absurd htime (not_lt.2 hbad)
  | parseShort => exact ⟨rfl, rfl, rfl, rfl⟩
  | parseOk _ _ r => exact ⟨rfl, replyResult_rtt_of_same_time rfl rfl len r⟩

end Sys2Proof.Machine
end

section
/-! The invariant of the block (R7, R26, R33, R52, R53, R104, R122): every update of the state keeps it, and so every
effect and every step. -/

namespace Sys2Proof.Machine

/-! ## The result of a `PARSE` -/

/-- The value of the two halves of a 64-bit difference (R147). -/
theorem append_halves_64 (v : BitVec 64) : v.extractLsb' 32 32 ++ v.extractLsb' 0 32 = v := by
  rw [BitVec.extractLsb'_append_extractLsb'_eq_extractLsb' (show 32 = 0 + 32 from rfl)]
  exact BitVec.extractLsb'_eq_self

/-- R151: every register of a `SHORT` result but `RES_KIND` and `RES_SEQ` is 0. -/
theorem resultShape_shortResult {s : State} {seq : Half} : (s.setResult (shortResult seq)).ResultShape := rfl

/-- R142, R147: what an `OK` result says of its registers. -/
theorem resultShape_replyResult {s : State} {len : Half} {r : ReplyBytes} (hlen : 28 ≤ len.toNat)
    (hcap : len.toNat ≤ s.rxcap.toNat) (hsend : s.tsUsecLast.toNat < 1000000) (htime : s.timeUsec.toNat < 1000000) :
    (s.setResult (replyResult s len r)).ResultShape := by
  obtain ⟨hbound, -, hneg, -⟩ :=
    roundTripTimeIsBoundedSignedAndMonotone s.tsSecLast s.tsUsecLast s.timeSec s.timeUsec hsend htime
  have hbytes : (replyResult s len r).bytes.toNat = len.toNat - 20 := by
    have := len.isLt
    change (BitVec.ofNat 16 (len.toNat - 20)).toNat = _
    rw [BitVec.toNat_ofNat]
    omega
  have hrtt : ((replyResult s len r).rttHi ++ (replyResult s len r).rttLo) =
      BitVec.ofNat 64 (rttMicros s.tsSecLast s.tsUsecLast s.timeSec s.timeUsec).1 := append_halves_64 _
  refine ⟨?_, ?_, ?_, fun hflag => ?_⟩
  · rw [State.setResult_res, hbytes]
    omega
  · rw [State.setResult_res, State.setResult_rxcap, hbytes]
    omega
  · rw [State.setResult_res, hrtt, BitVec.toNat_ofNat]
    omega
  · have hzero := hneg hflag
    simp only [State.setResult_res, replyResult, hzero]
    decide

/-! ## The updates -/

namespace State.Inv

/-- R230: a block of legal capacity after reset. -/
theorem powerOn {cap : Half} (h : 28 ≤ cap.toNat) : (State.powerOn cap).Inv where
  canonical := Memory.wf_nil
  mapped := nofun
  capacity := h
  validActive := nofun
  packetHeld := nofun
  sendTime := show (0 : Word).toNat < 1000000 by decide
  resultShape := rfl
  checksumPair := .inl ⟨rfl, rfl⟩

variable {s : State} (h : s.Inv)

include h

theorem respond (a : Response) : (s.respond a).Inv := { h with }
theorem raiseBusError (c : BusCause) : (s.raiseBusError c).Inv := { h with }
theorem raiseCmdError (e : ErrCode) : (s.raiseCmdError e).Inv := { h with }
theorem completeCmd : s.completeCmd.Inv := { h with }
theorem storeCmd (w : Word) : (s.storeCmd w).Inv := { h with }
theorem setTimeSec (w : Word) : (s.setTimeSec w).Inv := { h with }
theorem setTimeUsec (w : Word) : (s.setTimeUsec w).Inv := { h with }
theorem takeEvent (rest : List HostEvent) : (s.takeEvent rest).Inv := { h with }

/-- R230: reset gives the block after power-on, whatever the state before. -/
theorem applyReset : s.applyReset.Inv := { powerOn h.capacity with }

/-- R171: a started session holds no packet and no result. -/
theorem openSession (id : Half) : (s.openSession id).Inv :=
  { h with
    validActive := nofun
    packetHeld := nofun
    sendTime := by simp
    resultShape := rfl }

/-- R172: an ended session holds no packet. -/
theorem closeSession : s.closeSession.Inv := { h with validActive := nofun, packetHeld := nofun }

/-- R104: the checksum is the complement of the sum. -/
theorem setChecksum (bs : List Byte) : (s.setChecksum bs).Inv := { h with checksumPair := .inr rfl }

theorem setResult {r : ProbeResult} (hr : (s.setResult r).ResultShape) : (s.setResult r).Inv :=
  { h with resultShape := hr }

/-- R41, R53: the host's write to `RX` keeps the form of memory and the packet in `TX`. -/
theorem memWrite {a : Nat} {bs : List Byte} (hlo : 0x10000 ≤ a) (hhi : a + bs.length ≤ 0x10000 + s.rxcap.toNat) :
    (s.memWrite a bs).Inv :=
  { h with
    canonical := Memory.wf_writeBytes bs h.canonical a
    mapped := fun c hc => by
      rcases Memory.mem_writeBytes hc with ⟨hlo', hhi'⟩ | hold
      · exact .inr ⟨by omega, by simp only [State.memWrite_rxcap]; omega⟩
      · exact h.mapped c hold
    packetHeld := fun hvalid => (txRange_writeBytes_rx s.mem hlo bs).trans (h.packetHeld hvalid) }

/-- R122: `BUILD` in a session, at a legal time, latches the header state of the packet it writes. -/
theorem latchPacket (seq : Half) (hact : s.sact = true) (htime : s.timeUsec.toNat < 1000000) :
    (s.latchPacket seq).Inv :=
  { capacity := h.capacity
    resultShape := h.resultShape
    checksumPair := h.checksumPair
    canonical := by
      rw [State.latchPacket_mem]
      exact Memory.wf_writeBytes _ h.canonical _
    mapped := fun c hc => by
      rw [State.latchPacket_mem] at hc
      rcases Memory.mem_writeBytes hc with ⟨hlo, hhi⟩ | hold
      · rw [echoRequest_length] at hhi
        exact .inl ⟨hlo, Nat.le_of_lt_succ hhi⟩
      · exact h.mapped c hold
    validActive := fun _ => hact
    packetHeld := fun _ => by simpa using txRange_latchPacket (s := s) (seq := seq)
    sendTime := htime }

end State.Inv

/-! ## The effects -/

/-- Every effect of an instruction keeps the invariant. -/
theorem Effect.inv {i : Instr} {s t : State} (heff : Effect i s t) (h : s.Inv) : t.Inv := by
  induction heff with
  | nop => exact h.completeCmd
  | session id => exact (h.openSession id).completeCmd
  | endSession => exact h.closeSession.completeCmd
  | build seq _ hact htime => exact (h.latchPacket seq hact htime).completeCmd
  | parseShort => exact (h.setResult resultShape_shortResult).completeCmd
  | parseOk _ _ _ _ hcap htime hlen => exact (h.setResult (resultShape_replyResult hlen hcap h.sendTime htime)).completeCmd
  | cksum | cktx => exact (h.setChecksum _).completeCmd
  | buildState | buildTime | parseState | parseLen | parseTime | cksumLen => exact h.raiseCmdError _
  | rd8 | rd16 | rd32 => exact h.respond _
  | rd8Error | rd16Error | rd32Error | wr8Error | wr16Error | wr32Error => exact h.raiseBusError _
  | wr8 _ _ _ _ hdec | wr16 _ _ _ _ hdec | wr32 _ _ _ _ hdec =>
    obtain ⟨hlo, hhi⟩ := rx_range_of_decodeAddr (by decide) hdec
    refine State.Inv.respond (h.memWrite hlo ?_) _
    exact hhi
  | timeSec _ data => exact (h.setTimeSec data).respond _
  | timeUsec _ data => exact (h.setTimeUsec data).respond _
  | illegal _ data => exact ((h.storeCmd data).raiseCmdError _).respond _
  | command _ data _ _ _ _ _ _ ih => exact (ih (h.storeCmd data)).respond _

/-- Settles O15: the reference capacity is a legal one. -/
theorem resetMeetsTheInvariant : Obligations.ResetMeetsTheInvariant := by
  unfold Obligations.ResetMeetsTheInvariant
  exact State.Inv.powerOn (by decide)

/-- Settles O16, by the effects of the event that the step takes. -/
theorem everyStepKeepsTheInvariant : Obligations.EveryStepKeepsTheInvariant := by
  unfold Obligations.EveryStepKeepsTheInvariant
  intro s t h hstep
  rcases step_effect hstep with ⟨-, rfl⟩ | ⟨e, rest, -, heff⟩
  · exact h
  · cases heff with
    | reset => exact (h.takeEvent rest).applyReset
    | badCode => exact (h.takeEvent rest).raiseBusError _
    | run _ _ _ _ _ heff => exact heff.inv (h.takeEvent rest)

end Sys2Proof.Machine
end
